-- ==== Sys2Proof/Word.lean ====
section
/-!
DEFINITION. The value types of the spec (00_scope.md R7) and the small records its payloads and coefficient
tuples are made of. `S16`/`U16` and `S32`/`U32` are the same patterns; which reading a function uses is in
its own definition (`toInt` for signed, `toNat` for unsigned).
-/

namespace Sys2Proof

abbrev Byte := BitVec 8
abbrev U16 := BitVec 16
abbrev S16 := BitVec 16
abbrev U20 := BitVec 20
abbrev S32 := BitVec 32
abbrev U32 := BitVec 32

/-- A raw triple, in the order the sensor presents it: MSB, LSB, XLSB (R33). -/
structure RawTriple where
  msb  : Byte
  lsb  : Byte
  xlsb : Byte
  deriving DecidableEq, Repr

/-- The 24-byte calibration block, offset 0 first (R30). -/
abbrev CalBlock := Vector Byte 24

/-- Twelve 16-bit patterns, index k of R16: `dig_T1`, `dig_T2`, `dig_T3`, `dig_P1` to `dig_P9`. -/
abbrev CalPatterns := Vector U16 12

/-- The three temperature coefficients as `CompT` takes them, each widened to 32 bits (R90). -/
structure TempCoef where
  t1 : S32
  t2 : S32
  t3 : S32
  deriving DecidableEq, Repr

/-- The nine pressure coefficients as `CompP` takes them, each widened to 32 bits (R100). -/
structure PressCoef where
  p1 : S32
  p2 : S32
  p3 : S32
  p4 : S32
  p5 : S32
  p6 : S32
  p7 : S32
  p8 : S32
  p9 : S32
  deriving DecidableEq, Repr

/-- Twelve coefficient values as integers: what `CalEncode` and the line `LDCOEF` take (R57, R85). -/
structure CalValues where
  t1 : Int
  t2 : Int
  t3 : Int
  p1 : Int
  p2 : Int
  p3 : Int
  p4 : Int
  p5 : Int
  p6 : Int
  p7 : Int
  p8 : Int
  p9 : Int
  deriving DecidableEq, Repr

end Sys2Proof
end

