-- ==== Sys2Proof/Config.lean ====
section
/-!
DEFINITION. The parameters of 00_scope.md R5: the constant the source fixes, and the two the spec leaves open.
An open one is a constant with no body, so that no proof can see a value of it.
-/

namespace Sys2Proof.Config

/-- `LAST_T_RESET`, the never-read sentinel: -27315, pattern 0x954D (R5, R27). -/
def lastTReset : S16 := 0x954D

/-- `CAL_RESET` (R5, R27): what the twelve latches hold after the `n`-th reset. Unspecified, a free value:
`n` counts resets, so that nothing says two resets leave the same contents. DESIGN CHOICE, log entry 1. -/
opaque calReset : Nat → CalPatterns

/-- `T_FINE_RESET` (R5, R27): what `T_FINE` holds after the `n`-th reset. Unspecified, a free value.
DESIGN CHOICE, log entry 2. -/
opaque tFineReset : Nat → S32

end Sys2Proof.Config
end

