-- ==== Sys2Proof/Syntax.lean ====
section
/-!
DEFINITION. The five commands of the opcode map (30_encoding.md R47), with the operands their packets carry (R46).
Every operand is kept as the bytes of the packet, the four padding bits of a raw triple among them.
-/

namespace Sys2Proof

/-- One constructor per row of the opcode table. Every term is a command the table allows: the operand types
hold exactly the bytes the format has. -/
inductive Instr where
  /-- `LDCAL b0, …, b23`: load the calibration latch array (R84). -/
  | ldcal (block : CalBlock)
  /-- `CMPT b0, b1, b2`: compensate temperature (R92). -/
  | cmpt (rawT : RawTriple)
  /-- `CMPP b0, b1, b2`: compensate pressure (R104). -/
  | cmpp (rawP : RawTriple)
  /-- `CONV b0, …, b5`: convert one sample block, pressure triple first (R34, R120). -/
  | conv (rawP rawT : RawTriple)
  /-- `RDLT`: read the last temperature (R121). -/
  | rdlt
  deriving DecidableEq, Repr

end Sys2Proof
end

