-- ==== Sys2Proof/WellFormed.lean ====
section
/-!
DEFINITION. What the assembler accepts (30_encoding.md R56, R57). A line's operands are written as numbers, so a
line can be ill-formed; a term of `Instr` cannot (its operand types are the formats of R46). Which packets of
bytes are commands is `Packet.wellFormed` in Decode.lean.
-/

namespace Sys2Proof

/-- One line of the assembler syntax: the five commands with byte operands (R56) and the four
pseudo-instructions with value operands (R57). -/
inductive AsmLine where
  | ldcal (bytes : List Int)
  | cmpt (b0 b1 b2 : Int)
  | cmpp (b0 b1 b2 : Int)
  | conv (b0 b1 b2 b3 b4 b5 : Int)
  | rdlt
  | ldcoef (values : CalValues)
  | cmptr (r : Int)
  | cmppr (r : Int)
  | convr (rp rt : Int)
  deriving DecidableEq, Repr

/-- A byte operand is in 0..255 (R56). -/
def inByte (x : Int) : Bool := 0 ≤ x && x ≤ 255

/-- `t1` and `p1` of `LDCOEF` are in 0 to 65535 (R57). -/
def inU16 (x : Int) : Bool := 0 ≤ x && x ≤ 65535

/-- The other ten operands of `LDCOEF` are in -32768 to 32767 (R57). -/
def inS16 (x : Int) : Bool := -32768 ≤ x && x ≤ 32767

/-- A raw operand is in 0 to 1048575 (R57). -/
def inU20 (x : Int) : Bool := 0 ≤ x && x ≤ 1048575

/-- The twelve operands of `LDCOEF` are each in their range (R57). -/
def CalValues.inRange (v : CalValues) : Bool :=
  inU16 v.t1 && inS16 v.t2 && inS16 v.t3 && inU16 v.p1 && inS16 v.p2 && inS16 v.p3 && inS16 v.p4 &&
    inS16 v.p5 && inS16 v.p6 && inS16 v.p7 && inS16 v.p8 && inS16 v.p9

/-- The line assembles: "an operand outside its range is an assembly error" (R57), and `LDCAL` has 24
operands (R56). -/
def AsmLine.wellFormed : AsmLine → Bool
  | .ldcal bs => bs.length == 24 && bs.all inByte
  | .cmpt b0 b1 b2 => inByte b0 && inByte b1 && inByte b2
  | .cmpp b0 b1 b2 => inByte b0 && inByte b1 && inByte b2
  | .conv b0 b1 b2 b3 b4 b5 =>
      inByte b0 && inByte b1 && inByte b2 && inByte b3 && inByte b4 && inByte b5
  | .rdlt => true
  | .ldcoef v => v.inRange
  | .cmptr r => inU20 r
  | .cmppr r => inU20 r
  | .convr rp rt => inU20 rp && inU20 rt

end Sys2Proof
end

