-- ==== Sys2Proof/Decode.lean ====
section
/-!
DEFINITION. Packets of bytes to commands and back (30_encoding.md R45 to R47, R52, R53, R55). The decoder is total
and rejects by name; it answers the command and the bytes after its packet, which start the next packet.
-/

namespace Sys2Proof

/-- Why bytes are not a command. -/
inductive Reject where
  /-- There is no byte at all. -/
  | noPacket
  /-- The opcode byte names no command (R52). -/
  | reserved (op : Byte)
  /-- The packet is shorter than its format's length (R53): `got` bytes are there, the opcode among them. -/
  | short (op : Byte) (got : Nat)
  deriving DecidableEq, Repr

/-- The four formats of R46. -/
inductive Format where
  | n
  | r3
  | d6
  | c24
  deriving DecidableEq, Repr

/-- Total bytes of a packet, the opcode among them (R46). -/
def Format.bytes : Format → Nat
  | .n => 1
  | .r3 => 4
  | .d6 => 7
  | .c24 => 25

def opLDCAL : Byte := 0x01
def opCMPT : Byte := 0x02
def opCMPP : Byte := 0x03
def opCONV : Byte := 0x04
def opRDLT : Byte := 0x05

/-- The opcode map: the format an opcode byte selects, none where the byte is reserved (R47, R52). The match is
on the whole byte. -/
def formatOf (op : Byte) : Option Format :=
  if op = opLDCAL then some .c24
  else if op = opCMPT then some .r3
  else if op = opCMPP then some .r3
  else if op = opCONV then some .d6
  else if op = opRDLT then some .n
  else none

/-- The first 24 bytes as a calibration block, and the bytes after it. -/
def takeBlock (bs : List Byte) : Option (CalBlock × List Byte) :=
  if h : 24 ≤ bs.length then some (⟨(bs.take 24).toArray, by simp [h]⟩, bs.drop 24) else none

/-- The first three bytes as a raw triple, and the bytes after it. -/
def takeTriple : List Byte → Option (RawTriple × List Byte)
  | b0 :: b1 :: b2 :: rest => some (⟨b0, b1, b2⟩, rest)
  | _ => none

/-- The payload of the command that `op` names, and the bytes after it; none where bytes are missing or `op`
names no command (R46, R50). -/
def takePayload (op : Byte) (body : List Byte) : Option (Instr × List Byte) :=
  if op = opLDCAL then (takeBlock body).map fun (b, rest) => (.ldcal b, rest)
  else if op = opCMPT then (takeTriple body).map fun (t, rest) => (.cmpt t, rest)
  else if op = opCMPP then (takeTriple body).map fun (p, rest) => (.cmpp p, rest)
  else if op = opCONV then
    match takeTriple body with
    | some (p, body') => (takeTriple body').map fun (t, rest) => (.conv p t, rest)
    | none => none
  else if op = opRDLT then some (.rdlt, body)
  else none

/-- The decoder: the command at the front of a stream of bytes and the bytes after its packet. -/
def decode : List Byte → Except Reject (Instr × List Byte)
  | [] => .error .noPacket
  | op :: body =>
    match formatOf op with
    | none => .error (.reserved op)
    | some _ =>
      match takePayload op body with
      | some r => .ok r
      | none => .error (.short op (body.length + 1))

/-- A whole stream of bytes as commands; `fuel` bounds their number (each takes at least one byte, so the
stream's length is enough). -/
def decodeStream : Nat → List Byte → Except Reject (List Instr)
  | _, [] => .ok []
  | 0, _ :: _ => .error .noPacket
  | fuel + 1, bs =>
    match decode bs with
    | .error e => .error e
    | .ok (i, rest) =>
      match decodeStream fuel rest with
      | .error e => .error e
      | .ok is => .ok (i :: is)

/-- One packet, no more and no less: a defined opcode and the exact length (R158, `WellFormedStream`). -/
def Packet.wellFormed (bs : List Byte) : Bool :=
  match bs with
  | [] => false
  | op :: _ =>
    match formatOf op with
    | none => false
    | some f => bs.length == f.bytes

/-- The opcode byte of a command (R47). -/
def opcodeOf : Instr → Byte
  | .ldcal _ => opLDCAL
  | .cmpt _ => opCMPT
  | .cmpp _ => opCMPP
  | .conv _ _ => opCONV
  | .rdlt => opRDLT

/-- The format of a command (R47). -/
def Instr.format : Instr → Format
  | .ldcal _ => .c24
  | .cmpt _ => .r3
  | .cmpp _ => .r3
  | .conv _ _ => .d6
  | .rdlt => .n

/-- How many bytes the packet of a command has (R55). -/
def Instr.bytes (i : Instr) : Nat := i.format.bytes

def RawTriple.toBytes (t : RawTriple) : List Byte := [t.msb, t.lsb, t.xlsb]

/-- The encoder: the packet of a command, byte 0 first (R45 to R47). -/
def encode : Instr → List Byte
  | .ldcal b => opLDCAL :: b.toList
  | .cmpt t => opCMPT :: t.toBytes
  | .cmpp p => opCMPP :: p.toBytes
  | .conv p t => opCONV :: (p.toBytes ++ t.toBytes)
  | .rdlt => [opRDLT]

/-- `n` bytes of `w`, bits 7..0 first. -/
def bytesOfNat : Nat → Nat → List Byte
  | 0, _ => []
  | n + 1, w => BitVec.ofNat 8 w :: bytesOfNat n (w / 256)

/-- The bytes of the instruction whose bits are `w` as spec/opcode_table.json numbers them: bit 0 the least
significant bit of byte 0 of the packet. The row's `nbits` bits, and zeros up to the length the opcode fixes. -/
def tableBytes (nbits w : Nat) : List Byte :=
  let v := w % 2 ^ nbits
  let len := match formatOf (BitVec.ofNat 8 v) with
    | some f => f.bytes
    | none => 1
  bytesOfNat (max ((nbits + 7) / 8) len) v

/-- The instruction the decoder reads from such bits; none where it refuses. -/
def decodeTableWord (nbits w : Nat) : Option Instr :=
  match decode (tableBytes nbits w) with
  | .ok (i, _) => some i
  | .error _ => none

end Sys2Proof
end

