-- ==== Sys2Proof/Machine/State.lean ====
section
/-!
DEFINITION. The state of CE (10_state.md R15, R16, R20, R21), the host's side of the command port, the responses
(30_encoding.md R54), and the reasons a step can stop.
-/

namespace Sys2Proof.Machine

/-- What the host does to CE's one command port (00_scope.md R6, 70_reset_and_hazards.md R157). -/
inductive HostEvent where
  /-- The next byte of a packet (R45). -/
  | byte (b : Byte)
  /-- Reset, arriving while CE is idle or while bytes of a packet are still missing; that packet is abandoned
  (R146). -/
  | reset
  /-- Reset, arriving after the last byte of a packet and before its response: the command in progress is
  abandoned (R146). With no such command it is a reset like any other. -/
  | resetInCommand
  deriving DecidableEq, Repr

/-- One response, a tuple of typed values (R54). -/
inductive Response where
  /-- `LDCAL`: no value. -/
  | done
  /-- `CMPT`: `(t_fine : S32, tempCentiC : S16)`. -/
  | temperature (tFine : S32) (tempCentiC : S16)
  /-- `CMPP`, `CONV`: `(pressurePa : U32)`. -/
  | pressure (pressurePa : U32)
  /-- `RDLT`: `(lastTemp : S16)`. -/
  | lastTemp (t : S16)
  deriving DecidableEq, Repr

/-- The state. `cal`, `tFine` and `lastT` are the 240 bits of R15; the other three are the model's own: the
host's stream, the outcome of the run so far (R156), and the counter the free reset contents are applied to. -/
structure State where
  /-- `CAL[0..11]` (R16). -/
  cal       : CalPatterns
  /-- `T_FINE`, signed (R20). -/
  tFine     : S32
  /-- `LAST_T`, signed (R21). -/
  lastT     : S16
  /-- What the host has issued and CE has not taken, oldest first. -/
  input     : List HostEvent
  /-- The responses given, oldest first. -/
  responses : List Response
  /-- How many resets there were before the present one's contents: the argument of `Config.calReset` and
  `Config.tFineReset`. -/
  resets    : Nat
  deriving DecidableEq, Repr

/-- CE raises no exception of any kind: no command traps, faults or aborts (R130), so this type is empty. -/
inductive Fault where
  deriving DecidableEq, Repr

/-- Why the model gives a stream no step. -/
inductive Refusal where
  /-- `exec` only: an instruction of the table that has no meaning yet. No arm uses it. Safe. -/
  | notModelled (mnemonic : String)
  /-- `step` only: the opcode byte names no command (R52, `RESERVED_OP`, log entry 5). Safe. -/
  | reservedOpcode (op : Byte)
  /-- `step` only: the stream ends inside a packet; `got` bytes of it are there (R53, log entry 6). Safe. -/
  | shortPacket (op : Byte) (got : Nat)
  deriving DecidableEq, Repr

/-- The state right after reset (R27): the sentinel in `LAST_T`, the free values of the first reset in the latches and
`T_FINE` (log entries 1 and 2), and a host that has issued nothing and received nothing (log entries 3 and 4). -/
def State.reset : State where
  cal := Config.calReset 0
  tFine := Config.tFineReset 0
  lastT := Config.lastTReset
  input := []
  responses := []
  resets := 0

end Sys2Proof.Machine
end

