-- ==== Sys2Proof/Machine/Arith.lean ====
section
/-!
DEFINITION. The arithmetic primitives (00_scope.md R8, 40_arith.md R65 to R73), each as the spec writes it: computed
exactly in the integers, then narrowed by `wrap32` or `mod32`.
-/

namespace Sys2Proof.Machine

/-- The `S32` congruent to `z` modulo 2^32 (R8). -/
def wrap32 (z : Int) : S32 := BitVec.ofInt 32 z

/-- The `U32` congruent to `z` modulo 2^32 (R8). -/
def mod32 (z : Int) : U32 := BitVec.ofInt 32 z

/-- R65. -/
def add32 (a b : S32) : S32 := wrap32 (a.toInt + b.toInt)

/-- R65. -/
def sub32 (a b : S32) : S32 := wrap32 (a.toInt - b.toInt)

/-- R65: the low 32 bits of the product. -/
def mul32 (a b : S32) : S32 := wrap32 (a.toInt * b.toInt)

/-- R66: `floor(a / 2^n)`; `/` on `Int` with a positive divisor is the floor. -/
def asr32 (a : S32) (n : Nat) : S32 := wrap32 (a.toInt / 2 ^ n)

/-- R67. -/
def shl32 (a : S32) (n : Nat) : S32 := wrap32 (a.toInt * 2 ^ n)

/-- R69. -/
def addu32 (u v : U32) : U32 := mod32 ((u.toNat : Int) + v.toNat)

/-- R69. -/
def subu32 (u v : U32) : U32 := mod32 ((u.toNat : Int) - v.toNat)

/-- R69. -/
def mulu32 (u v : U32) : U32 := mod32 ((u.toNat : Int) * v.toNat)

/-- R70: `floor(u / 2^n)`. -/
def lsr32 (u : U32) (n : Nat) : U32 := BitVec.ofNat 32 (u.toNat / 2 ^ n)

/-- R71: the unsigned floor quotient. It takes a proof that the divisor is not 0: "never divides by zero". -/
def divu32 (u d : U32) (_ : d ≠ 0) : U32 := BitVec.ofNat 32 (u.toNat / d.toNat)

/-- R72: the same 32-bit pattern. -/
def asU32 (a : S32) : U32 := a

/-- R72: the same 32-bit pattern. -/
def asS32 (u : U32) : S32 := u

/-- R73: the low 16 bits. -/
def trunc16 (a : S32) : S16 := a.extractLsb' 0 16

/-- R68: a `U16` enters by value. -/
def zext16 (v : U16) : S32 := wrap32 v.toNat

/-- R68: an `S16` enters by value. -/
def sext16 (v : S16) : S32 := wrap32 v.toInt

/-- R68: a raw value enters by value, never negative. -/
def zext20 (v : U20) : S32 := wrap32 v.toNat

end Sys2Proof.Machine
end

