-- ==== Sys2Proof/Machine/Operands.lean ====
section
/-!
DEFINITION. Operand assembly and the coefficient latches: `RawAssemble`, `RawBytes` (30_encoding.md R48, R51),
`CalDecode`, `CalEncode` (41_calibration.md R83, R85) and the typed reads (10_state.md R17).
-/

namespace Sys2Proof.Machine

/-- `RawAssemble`: `b0 * 4096 + b1 * 16 + b2[7:4]`; the low four bits of the third byte are dropped (R48, R49). -/
def rawAssemble (t : RawTriple) : U20 :=
  BitVec.ofNat 20 (t.msb.toNat * 4096 + t.lsb.toNat * 16 + t.xlsb.toNat / 16)

/-- `RawBytes`: the triple of a raw value, padding bits 0 (R51). -/
def rawBytes (r : U20) : RawTriple where
  msb := r.extractLsb' 12 8
  lsb := r.extractLsb' 4 8
  xlsb := r.extractLsb' 0 4 ++ 0#4

/-- One coefficient of the block: the byte at the lower offset is the less significant (R31). -/
def littleEndian (lo hi : Byte) : U16 := hi ++ lo

/-- `CalDecode`: coefficient k from offsets 2k and 2k+1 (R31, R32, R83). -/
def calDecode (b : CalBlock) : CalPatterns :=
  Vector.ofFn fun k => littleEndian b[2 * k.val] b[2 * k.val + 1]

/-- Twelve values, each reduced to its 16-bit pattern (R85). -/
def calPatterns (v : CalValues) : CalPatterns :=
  #v[BitVec.ofInt 16 v.t1, BitVec.ofInt 16 v.t2, BitVec.ofInt 16 v.t3, BitVec.ofInt 16 v.p1, BitVec.ofInt 16 v.p2,
     BitVec.ofInt 16 v.p3, BitVec.ofInt 16 v.p4, BitVec.ofInt 16 v.p5, BitVec.ofInt 16 v.p6, BitVec.ofInt 16 v.p7,
     BitVec.ofInt 16 v.p8, BitVec.ofInt 16 v.p9]

/-- `CalEncode`: byte 2k is bits 7 to 0 of pattern k, byte 2k+1 its bits 15 to 8 (R85). -/
def calEncode (v : CalValues) : CalBlock :=
  Vector.ofFn fun j =>
    if j.val % 2 = 0 then (calPatterns v)[j.val / 2].extractLsb' 0 8 else (calPatterns v)[j.val / 2].extractLsb' 8 8

/-- The typed reads `cal.T1`, `cal.T2`, `cal.T3` (R17). -/
def tempCoef (cal : CalPatterns) : TempCoef where
  t1 := zext16 cal[0]
  t2 := sext16 cal[1]
  t3 := sext16 cal[2]

/-- The typed reads `cal.P1` to `cal.P9` (R17). -/
def pressCoef (cal : CalPatterns) : PressCoef where
  p1 := zext16 cal[3]
  p2 := sext16 cal[4]
  p3 := sext16 cal[5]
  p4 := sext16 cal[6]
  p5 := sext16 cal[7]
  p6 := sext16 cal[8]
  p7 := sext16 cal[9]
  p8 := sext16 cal[10]
  p9 := sext16 cal[11]

/-- The twelve typed reads as integers, for the round trip of R86. -/
def calValues (cal : CalPatterns) : CalValues where
  t1 := (tempCoef cal).t1.toInt
  t2 := (tempCoef cal).t2.toInt
  t3 := (tempCoef cal).t3.toInt
  p1 := (pressCoef cal).p1.toInt
  p2 := (pressCoef cal).p2.toInt
  p3 := (pressCoef cal).p3.toInt
  p4 := (pressCoef cal).p4.toInt
  p5 := (pressCoef cal).p5.toInt
  p6 := (pressCoef cal).p6.toInt
  p7 := (pressCoef cal).p7.toInt
  p8 := (pressCoef cal).p8.toInt
  p9 := (pressCoef cal).p9.toInt

end Sys2Proof.Machine
end

