-- ==== Sys2Proof/Machine/Ops.lean ====
section
/-!
DEFINITION. The named operations on the state: what a command may write, the response, what reset does, and what the
host does to the command port. There is no memory (20_memory.md R30), no program counter (10_state.md R22) and no
exception to take or return from (60_exceptions.md R130, R137), so there is no operation for one.
-/

namespace Sys2Proof.Machine

/-- All twelve latches in one step (R18, R37). -/
def State.loadCal (s : State) (w : CalPatterns) : State := { s with cal := w }

/-- `T_FINE <- tf` and `LAST_T <- tc`, both in one step (R37). -/
def State.writeTemperature (s : State) (tf : S32) (tc : S16) : State := { s with tFine := tf, lastT := tc }

/-- The one response of a command (R54). -/
def State.respond (s : State) (r : Response) : State := { s with responses := s.responses ++ [r] }

/-- The rest of the host's stream, once CE has taken what stands before it. -/
def State.withInput (s : State) (es : List HostEvent) : State := { s with input := es }

/-- Reset (70_reset_and_hazards.md R146): the state of R27, with fresh free contents. No response is given, and
those given before are the host's already. -/
def State.applyReset (s : State) : State where
  cal := Config.calReset (s.resets + 1)
  tFine := Config.tFineReset (s.resets + 1)
  lastT := Config.lastTReset
  input := s.input
  responses := s.responses
  resets := s.resets + 1

/-- The host issues bytes (R157). -/
def State.issueBytes (s : State) (bs : List Byte) : State := { s with input := s.input ++ bs.map .byte }

/-- The host issues commands, one packet after the other (R45). -/
def State.issue (s : State) (is : List Instr) : State := s.issueBytes (is.flatMap encode)

/-- The host's stream is exactly these bytes. -/
def State.withPacket (s : State) (bs : List Byte) : State := { s with input := bs.map .byte }

end Sys2Proof.Machine
end

