-- ==== Sys2Proof/Machine/Calibration.lean ====
section
/-!
DEFINITION. The calibration family: `LDCAL` (41_calibration.md R84).
-/

namespace Sys2Proof.Machine

/-- `LDCAL`: every 24-byte block is accepted; all twelve latches are written, `T_FINE` and `LAST_T` are not (R84). -/
def execLdcal (block : CalBlock) (s : State) : Host.Outcome State Fault Refusal :=
  .next ((s.loadCal (calDecode block)).respond .done)

end Sys2Proof.Machine
end

