-- ==== Sys2Proof/Machine/Flags.lean ====
section
/-!
DEFINITION. CE has no flags (10_state.md R23): no command writes one. What it has in their place is the two
conditions computed inside `CompP` and used at once, never latched.
-/

namespace Sys2Proof.Machine

/-- The zero guard of step P7: all 32 bits of `var1c` are 0 (43_pressure.md R101, 40_arith.md R74). -/
abbrev guardFires (var1c : S32) : Prop := var1c = 0

/-- The low branch of step P9: `p0 < 2^31`, unsigned (43_pressure.md R103, 40_arith.md R74). -/
abbrev doublingFits (p0 : U32) : Prop := p0.toNat < 2 ^ 31

end Sys2Proof.Machine
end

