-- ==== Sys2Proof/Machine/Pressure.lean ====
section
/-!
DEFINITION. The pressure pipeline `CompP` (43_pressure.md R100 to R103), step by step, and the command `CMPP` (R104).
The names are the spec's: `var1a`, `var1b`, `var1c`, `var1d` are the four uses the source makes of `var1`.
-/

namespace Sys2Proof.Machine

/-- Step P1: `(t_fine>>1) - 64000`. -/
def pressVar1a (tFine : S32) : S32 := sub32 (asr32 tFine 1) 64000

/-- Step P2: `q = var1a >> 2`. -/
def pressQ (var1a : S32) : S32 := asr32 var1a 2

/-- Step P2: `qq = q * q`. -/
def pressQQ (var1a : S32) : S32 := mul32 (pressQ var1a) (pressQ var1a)

/-- Step P2: `var2a = (qq >> 11) * dig_P6`. -/
def pressVar2a (var1a : S32) (c : PressCoef) : S32 := mul32 (asr32 (pressQQ var1a) 11) c.p6

/-- Step P3: `var2b = var2a + ((var1a * dig_P5) << 1)`. -/
def pressVar2b (var1a : S32) (c : PressCoef) : S32 :=
  add32 (pressVar2a var1a c) (shl32 (mul32 var1a c.p5) 1)

/-- Step P4: `var2c = (var2b >> 2) + (dig_P4 << 16)`. -/
def pressVar2c (var1a : S32) (c : PressCoef) : S32 := add32 (asr32 (pressVar2b var1a c) 2) (shl32 c.p4 16)

/-- Step P5: `x = (dig_P3 * (qq >> 13)) >> 3`. -/
def pressX (var1a : S32) (c : PressCoef) : S32 := asr32 (mul32 c.p3 (asr32 (pressQQ var1a) 13)) 3

/-- Step P5: `y = (dig_P2 * var1a) >> 1`. -/
def pressY (var1a : S32) (c : PressCoef) : S32 := asr32 (mul32 c.p2 var1a) 1

/-- Step P5: `var1b = (x + y) >> 18`. -/
def pressVar1b (var1a : S32) (c : PressCoef) : S32 := asr32 (add32 (pressX var1a c) (pressY var1a c)) 18

/-- Step P6: `var1c = ((32768 + var1b) * dig_P1) >> 15`, the value the guard tests. -/
def pressVar1c (var1a : S32) (c : PressCoef) : S32 := asr32 (mul32 (add32 32768 (pressVar1b var1a c)) c.p1) 15

/-- Step P8: `p0 = (1048576 - rawP - (var2c >> 12)) * 3125`, unsigned. -/
def pressP0 (rawP : U20) (var2c : S32) : U32 :=
  mulu32 (subu32 (subu32 1048576 (zext20 rawP)) (asU32 (asr32 var2c 12))) 3125

/-- Step P9: double and divide where the doubling fits, else divide and double (R103). -/
def pressP1 (p0 dv : U32) (h : dv ≠ 0) : U32 :=
  if doublingFits p0 then divu32 (mod32 ((p0.toNat : Int) * 2)) dv h else mulu32 (divu32 p0 dv h) 2

/-- Step P10: `w = ((p1 >> 3) * (p1 >> 3)) >> 13`, unsigned, its shifts logical (R102). -/
def pressW (p1 : U32) : U32 := lsr32 (mulu32 (lsr32 p1 3) (lsr32 p1 3)) 13

/-- Step P10: `var1d = (dig_P9 * w) >> 12`. -/
def pressVar1d (p1 : U32) (c : PressCoef) : S32 := asr32 (mul32 c.p9 (asS32 (pressW p1))) 12

/-- Step P11: `var2d = ((p1 >> 2) * dig_P8) >> 13`. -/
def pressVar2d (p1 : U32) (c : PressCoef) : S32 := asr32 (mul32 (asS32 (lsr32 p1 2)) c.p8) 13

/-- Step P12: `corr = (var1d + var2d + dig_P7) >> 4`. -/
def pressCorr (p1 : U32) (c : PressCoef) : S32 :=
  asr32 (add32 (add32 (pressVar1d p1 c) (pressVar2d p1 c)) c.p7) 4

/-- Step P12: `p2 = p1 + corr`, modulo 2^32. -/
def pressFinal (p1 : U32) (c : PressCoef) : U32 := addu32 p1 (asU32 (pressCorr p1 c))

/-- `CompP` (R100). Where the guard fires the answer is 0 and nothing after it is evaluated (R101). -/
def compP (rawP : U20) (tFine : S32) (c : PressCoef) : U32 :=
  let var1a := pressVar1a tFine
  if h : guardFires (pressVar1c var1a c) then 0
  else pressFinal (pressP1 (pressP0 rawP (pressVar2c var1a c)) (asU32 (pressVar1c var1a c)) h) c

/-- `CMPP` (R104): `t_fine` is the register `T_FINE`; no state is written. -/
def execCmpp (p : RawTriple) (s : State) : Host.Outcome State Fault Refusal :=
  .next (s.respond (.pressure (compP (rawAssemble p) s.tFine (pressCoef s.cal))))

end Sys2Proof.Machine
end

