-- ==== Sys2Proof/Machine/Temperature.lean ====
section
/-!
DEFINITION. The temperature pipeline `CompT` (42_temperature.md R90), step by step, and the command `CMPT` (R92).
-/

namespace Sys2Proof.Machine

/-- Step T1: `a = (rawT>>3) - (dig_T1<<1)`. -/
def tempA (rawT : U20) (c : TempCoef) : S32 := sub32 (asr32 (zext20 rawT) 3) (shl32 c.t1 1)

/-- Step T1: `var1 = (a * dig_T2) >> 11`. -/
def tempVar1 (rawT : U20) (c : TempCoef) : S32 := asr32 (mul32 (tempA rawT c) c.t2) 11

/-- Step T2: `d = (rawT>>4) - dig_T1`. -/
def tempD (rawT : U20) (c : TempCoef) : S32 := sub32 (asr32 (zext20 rawT) 4) c.t1

/-- Step T2: `sq = d * d`. -/
def tempSq (rawT : U20) (c : TempCoef) : S32 := mul32 (tempD rawT c) (tempD rawT c)

/-- Step T2: `var2 = ((sq >> 12) * dig_T3) >> 14`. -/
def tempVar2 (rawT : U20) (c : TempCoef) : S32 := asr32 (mul32 (asr32 (tempSq rawT c) 12) c.t3) 14

/-- Step T3: `t_fine = var1 + var2`. -/
def tempFine (rawT : U20) (c : TempCoef) : S32 := add32 (tempVar1 rawT c) (tempVar2 rawT c)

/-- Step T4: `t32 = (t_fine*5 + 128) >> 8`. -/
def tempT32 (tFine : S32) : S32 := asr32 (add32 (mul32 tFine 5) 128) 8

/-- Step T4: `tempCentiC`, the low 16 bits of `t32`. -/
def tempCentiC (tFine : S32) : S16 := trunc16 (tempT32 tFine)

/-- `CompT` (R90): `(t_fine, tempCentiC)`. Total, no error case (R91). -/
def compT (rawT : U20) (c : TempCoef) : S32 × S16 :=
  let tf := tempFine rawT c
  (tf, tempCentiC tf)

/-- `CMPT` (R92). -/
def execCmpt (t : RawTriple) (s : State) : Host.Outcome State Fault Refusal :=
  let r := compT (rawAssemble t) (tempCoef s.cal)
  .next ((s.writeTemperature r.1 r.2).respond (.temperature r.1 r.2))

end Sys2Proof.Machine
end

