-- ==== Sys2Proof/Machine/Readback.lean ====
section
/-!
DEFINITION. Whole-sample conversion `CONV` (44_sample_readback.md R120) and last-temperature read-back `RDLT` (R121).
-/

namespace Sys2Proof.Machine

/-- `CONV` (R120): temperature first, then pressure with the new `t_fine`. Both registers are written whatever the
pressure turns out to be (R123). -/
def execConv (p t : RawTriple) (s : State) : Host.Outcome State Fault Refusal :=
  let r := compT (rawAssemble t) (tempCoef s.cal)
  .next ((s.writeTemperature r.1 r.2).respond (.pressure (compP (rawAssemble p) r.1 (pressCoef s.cal))))

/-- `RDLT` (R121): nothing is written. -/
def execRdlt (s : State) : Host.Outcome State Fault Refusal := .next (s.respond (.lastTemp s.lastT))

end Sys2Proof.Machine
end

