-- ==== Sys2Proof/Machine/Dispatch.lean ====
section
/-!
DEFINITION. One arm per command.
-/

namespace Sys2Proof.Machine

def exec (i : Instr) (s : State) : Host.Outcome State Fault Refusal :=
  match i with
  | .ldcal block => Sys2Proof.Machine.execLdcal block s
  | .cmpt rawT => Sys2Proof.Machine.execCmpt rawT s
  | .cmpp rawP => Sys2Proof.Machine.execCmpp rawP s
  | .conv rawP rawT => Sys2Proof.Machine.execConv rawP rawT s
  | .rdlt => Sys2Proof.Machine.execRdlt s

end Sys2Proof.Machine
end

