-- ==== Sys2Proof/Machine/Fetch.lean ====
section
/-!
DEFINITION. What stands next in the host's stream (30_encoding.md R45, R53; 70_reset_and_hazards.md R146). A packet's
bytes are those before the next reset event.
-/

namespace Sys2Proof.Machine

/-- What CE takes next. -/
inductive Fetched where
  /-- Nothing is pending. -/
  | idle
  /-- A reset, a command it abandons taken with it; `rest` is what the host does after it. -/
  | reset (rest : List HostEvent)
  /-- A whole packet, and what the host does after it. -/
  | command (i : Instr) (rest : List HostEvent)
  /-- An opcode byte that names no command. -/
  | reserved (op : Byte)
  /-- The stream ends inside a packet. -/
  | short (op : Byte) (got : Nat)
  deriving DecidableEq, Repr

/-- The bytes before the first reset event. -/
def leadingBytes : List HostEvent → List Byte
  | .byte b :: es => b :: leadingBytes es
  | _ => []

/-- From the first reset event on. -/
def afterBytes : List HostEvent → List HostEvent
  | .byte _ :: es => afterBytes es
  | es => es

/-- A whole packet is there; the command runs unless a reset arrives before its response (R146). -/
def fetchCommand (i : Instr) (rest : List HostEvent) : Fetched :=
  match rest with
  | .resetInCommand :: es => .reset es
  | es => .command i es

/-- The stream has only part of a packet; a reset abandons it (R146), else it is short (R53). -/
def fetchPartial (op : Byte) (got : Nat) (rest : List HostEvent) : Fetched :=
  match rest with
  | [] => .short op got
  | _ :: es => .reset es

/-- What CE takes next from the host's stream. -/
def fetch : List HostEvent → Fetched
  | [] => .idle
  | .reset :: es => .reset es
  | .resetInCommand :: es => .reset es
  | .byte b :: es =>
    match decode (b :: leadingBytes es) with
    | .ok (i, bs) => fetchCommand i (bs.map .byte ++ afterBytes es)
    | .error (.short op got) => fetchPartial op got (afterBytes es)
    | .error (.reserved op) => .reserved op
    | .error .noPacket => .idle

end Sys2Proof.Machine
end

