-- ==== Sys2Proof/Machine/Step.lean ====
section
/-!
DEFINITION. One step: take what the host did next and do it (20_memory.md R40). With nothing pending no state
changes (00_scope.md R6).
-/

namespace Sys2Proof.Machine

def step (s : State) : Host.Outcome State Fault Refusal :=
  match fetch s.input with
  | .idle => .next s
  | .reset rest => .next (s.withInput rest).applyReset
  | .command i rest => exec i (s.withInput rest)
  | .reserved op => .refused (.reservedOpcode op)
  | .short op got => .refused (.shortPacket op got)

/-- The host's stream holds exactly the instruction whose bits the opcode table numbers so: the next step runs it. -/
def State.withFetchWord (s : State) (nbits w : Nat) : State := s.withPacket (tableBytes nbits w)

end Sys2Proof.Machine
end

