-- ==== Sys2Proof/Reference.lean ====
section
/-!
DEFINITION. The two pipelines written a second time and a third, for statements that compare them with the model.
`listingT`, `listingP`: the source's listings as 42_temperature.md R90 and 43_pressure.md R100 quote them, grouped as
40_arith.md R63 says, in the operators of a 32-bit machine. `exactTFine`, `exactP`: the same in unbounded integers, with
no wrap in any signed step. Neither uses a definition of the model; the model uses neither.
-/

namespace Sys2Proof.Reference

/-- `(b0 ++ b1 ++ b2)[23:4]` (R48). -/
def rawOf (t : RawTriple) : BitVec 20 := (t.msb ++ t.lsb ++ t.xlsb).extractLsb' 4 20

/-- The temperature coefficients as the listing reads them: one zero-extended, two sign-extended (R17). -/
def tempArgs (cal : CalPatterns) : TempCoef :=
  ⟨cal[0].setWidth 32, cal[1].signExtend 32, cal[2].signExtend 32⟩

/-- The pressure coefficients as the listing reads them: one zero-extended, eight sign-extended (R17). -/
def pressArgs (cal : CalPatterns) : PressCoef :=
  ⟨cal[3].setWidth 32, cal[4].signExtend 32, cal[5].signExtend 32, cal[6].signExtend 32, cal[7].signExtend 32,
   cal[8].signExtend 32, cal[9].signExtend 32, cal[10].signExtend 32, cal[11].signExtend 32⟩

/-- The twelve patterns of the example coefficient set of 95_test_vectors.md section 2, group G. -/
def exampleCal : CalPatterns :=
  #v[0x6B70, 0x6743, 0xFC18, 0x8E7D, 0xD643, 0x0BD0, 0x0B27, 0x008C, 0xFFF9, 0x3C8C, 0xC6F8, 0x1770]

/-- The calibration block of the same set, as the example of 41_calibration.md R84 writes it. -/
def exampleBlock : CalBlock :=
  #v[0x70, 0x6B, 0x43, 0x67, 0x18, 0xFC, 0x7D, 0x8E, 0x43, 0xD6, 0xD0, 0x0B,
     0x27, 0x0B, 0x8C, 0x00, 0xF9, 0xFF, 0x8C, 0x3C, 0xF8, 0xC6, 0x70, 0x17]

/-- The temperature listing, in the operators of a 32-bit machine: `>>` on a signed value copies the sign. -/
def listingT (rawT : BitVec 20) (c : TempCoef) : BitVec 32 × BitVec 16 :=
  let r : BitVec 32 := rawT.setWidth 32
  let var1 := (((r.sshiftRight 3) - (c.t1 <<< 1)) * c.t2).sshiftRight 11
  let var2 := (((((r.sshiftRight 4) - c.t1) * ((r.sshiftRight 4) - c.t1)).sshiftRight 12) * c.t3).sshiftRight 14
  let tFine := var1 + var2
  (tFine, ((tFine * 5 + 128).sshiftRight 8).setWidth 16)

/-- The divisor `var1` the pressure listing tests, from `t_fine` and the coefficients. -/
def listingDivisor (tFine : BitVec 32) (c : PressCoef) : BitVec 32 :=
  let var1 := (tFine.sshiftRight 1) - 64000
  let sq := (var1.sshiftRight 2) * (var1.sshiftRight 2)
  let var1 := (((c.p3 * (sq.sshiftRight 13)).sshiftRight 3) + ((c.p2 * var1).sshiftRight 1)).sshiftRight 18
  ((32768 + var1) * c.p1).sshiftRight 15

/-- The pressure listing: `var1` and `var2` signed, `p` unsigned (R102). -/
def listingP (rawP : BitVec 20) (tFine : BitVec 32) (c : PressCoef) : BitVec 32 :=
  let var1 := (tFine.sshiftRight 1) - 64000
  let var2 := (((var1.sshiftRight 2) * (var1.sshiftRight 2)).sshiftRight 11) * c.p6
  let var2 := var2 + ((var1 * c.p5) <<< 1)
  let var2 := (var2.sshiftRight 2) + (c.p4 <<< 16)
  let dv := listingDivisor tFine c
  if dv = 0 then 0
  else
    let p := ((1048576 - rawP.setWidth 32) - (var2.sshiftRight 12)) * 3125
    let p := if p < 0x80000000 then (p <<< 1) / dv else (p / dv) * 2
    let var1 := (c.p9 * (((p >>> 3) * (p >>> 3)) >>> 13)).sshiftRight 12
    let var2 := ((p >>> 2) * c.p8).sshiftRight 13
    p + ((var1 + var2 + c.p7).sshiftRight 4)

/-- `t_fine` of the temperature listing in unbounded integers; `/` is the floor. -/
def exactTFine (rawT : Int) (c : CalValues) : Int :=
  (rawT / 8 - c.t1 * 2) * c.t2 / 2048 + (rawT / 16 - c.t1) * (rawT / 16 - c.t1) / 4096 * c.t3 / 16384

/-- The last correction of the pressure listing in unbounded integers, for an unsigned `p`. -/
def exactCorr (p p7 p8 p9 : Int) : Int :=
  (p9 * ((p / 8 * (p / 8)) % 4294967296 / 8192) / 4096 + p / 4 * p8 / 8192 + p7) / 16

/-- The pressure listing with every signed step in unbounded integers and `p` modulo 2^32 (R69). -/
def exactP (rawP tFine : Int) (c : CalValues) : Int :=
  let var1a := tFine / 2 - 64000
  let qq := var1a / 4 * (var1a / 4)
  let var2c := (qq / 2048 * c.p6 + var1a * c.p5 * 2) / 4 + c.p4 * 65536
  let var1b := (c.p3 * (qq / 8192) / 8 + c.p2 * var1a / 2) / 262144
  let dv := (32768 + var1b) * c.p1 / 32768
  if dv = 0 then 0
  else
    let p0 := (1048576 - rawP - var2c / 4096) * 3125 % 4294967296
    let p1 := if p0 < 2147483648 then p0 * 2 / dv else p0 / dv * 2 % 4294967296
    (p1 + exactCorr p1 c.p7 c.p8 c.p9) % 4294967296

end Sys2Proof.Reference
end

