-- ==== Sys2Proof/Machine/Assembler.lean ====
section
/-!
DEFINITION. The assembler of 30_encoding.md R56 and R57: from the text of a line to an `AsmLine`, from that to a
command, and from a program's text to its bytes. It is no part of CE; the host side uses it.
-/

namespace Sys2Proof.Machine

/-- A byte operand. -/
def asmByte (x : Int) : Byte := BitVec.ofInt 8 x

/-- The raw triple of three byte operands. -/
def asmTriple (b0 b1 b2 : Int) : RawTriple := ⟨asmByte b0, asmByte b1, asmByte b2⟩

/-- The raw triple of a value operand, padding bits 0 (R57). -/
def asmRaw (r : Int) : RawTriple := rawBytes (BitVec.ofInt 20 r)

/-- The command a line stands for, once its operands are known to be in range. -/
def assembleInRange : AsmLine → Option Instr
  | .ldcal bs => (takeBlock (bs.map asmByte)).map fun (b, _) => .ldcal b
  | .cmpt b0 b1 b2 => some (.cmpt (asmTriple b0 b1 b2))
  | .cmpp b0 b1 b2 => some (.cmpp (asmTriple b0 b1 b2))
  | .conv b0 b1 b2 b3 b4 b5 => some (.conv (asmTriple b0 b1 b2) (asmTriple b3 b4 b5))
  | .rdlt => some .rdlt
  | .ldcoef v => some (.ldcal (calEncode v))
  | .cmptr r => some (.cmpt (asmRaw r))
  | .cmppr r => some (.cmpp (asmRaw r))
  | .convr rp rt => some (.conv (asmRaw rp) (asmRaw rt))

/-- One line to its command; none is an assembly error (R57). -/
def assemble (l : AsmLine) : Option Instr := if l.wellFormed then assembleInRange l else none

/-! ### The text of a line -/

def isBlank (c : Char) : Bool := c == ' ' || c == '\t'

def skipBlanks (cs : List Char) : List Char := cs.dropWhile isBlank

def trimBlanks (cs : List Char) : List Char := (skipBlanks (skipBlanks cs).reverse).reverse

/-- "A comment from `;` to the end of the line" (R56). -/
def stripComment (cs : List Char) : List Char := cs.takeWhile (· != ';')

/-- The parts between separators, at least one. -/
def splitAtChar (sep : Char) : List Char → List (List Char)
  | [] => [[]]
  | c :: cs =>
    if c == sep then [] :: splitAtChar sep cs
    else match splitAtChar sep cs with
      | part :: parts => (c :: part) :: parts
      | [] => [[c]]

/-- One digit of a numeral in base `base`. -/
def digitOf (base : Nat) (c : Char) : Option Nat :=
  let n := c.toNat
  let v? := if 48 ≤ n && n ≤ 57 then some (n - 48)
    else if 65 ≤ n && n ≤ 70 then some (n - 55)
    else if 97 ≤ n && n ≤ 102 then some (n - 87)
    else none
  match v? with
  | some v => if v < base then some v else none
  | none => none

def numeral (base : Nat) : Nat → List Char → Option Nat
  | acc, [] => some acc
  | acc, c :: cs =>
    match digitOf base c with
    | some d => numeral base (acc * base + d) cs
    | none => none

/-- "Numbers in decimal or in hexadecimal with `0x`" (R56). -/
def parseNat : List Char → Option Nat
  | [] => none
  | '0' :: 'x' :: c :: cs => numeral 16 0 (c :: cs)
  | cs => numeral 10 0 cs

/-- A number, with a minus sign for the signed operands of `LDCOEF`. -/
def parseInt : List Char → Option Int
  | '-' :: cs => (parseNat cs).map fun n => -(n : Int)
  | cs => (parseNat cs).map fun n => (n : Int)

def parseOperands (cs : List Char) : Option (List Int) :=
  match trimBlanks cs with
  | [] => some []
  | c :: rest => (splitAtChar ',' (c :: rest)).mapM fun part => parseInt (trimBlanks part)

/-- The line a mnemonic and its operands make; none where the mnemonic or the number of operands is wrong. -/
def lineOf (mnemonic : List Char) (ops : List Int) : Option AsmLine :=
  if mnemonic = ['L', 'D', 'C', 'A', 'L'] then some (.ldcal ops)
  else if mnemonic = ['C', 'M', 'P', 'T'] then
    match ops with
    | [b0, b1, b2] => some (.cmpt b0 b1 b2)
    | _ => none
  else if mnemonic = ['C', 'M', 'P', 'P'] then
    match ops with
    | [b0, b1, b2] => some (.cmpp b0 b1 b2)
    | _ => none
  else if mnemonic = ['C', 'O', 'N', 'V'] then
    match ops with
    | [b0, b1, b2, b3, b4, b5] => some (.conv b0 b1 b2 b3 b4 b5)
    | _ => none
  else if mnemonic = ['R', 'D', 'L', 'T'] then
    match ops with
    | [] => some .rdlt
    | _ => none
  else if mnemonic = ['L', 'D', 'C', 'O', 'E', 'F'] then
    match ops with
    | [t1, t2, t3, p1, p2, p3, p4, p5, p6, p7, p8, p9] =>
      some (.ldcoef ⟨t1, t2, t3, p1, p2, p3, p4, p5, p6, p7, p8, p9⟩)
    | _ => none
  else if mnemonic = ['C', 'M', 'P', 'T', 'R'] then
    match ops with
    | [r] => some (.cmptr r)
    | _ => none
  else if mnemonic = ['C', 'M', 'P', 'P', 'R'] then
    match ops with
    | [r] => some (.cmppr r)
    | _ => none
  else if mnemonic = ['C', 'O', 'N', 'V', 'R'] then
    match ops with
    | [rp, rt] => some (.convr rp rt)
    | _ => none
  else none

/-- A line that holds a command, its comment already taken off. -/
def parseCommand (cs : List Char) : Option AsmLine :=
  match parseOperands (cs.dropWhile fun c => !isBlank c) with
  | some ops => lineOf (cs.takeWhile fun c => !isBlank c) ops
  | none => none

/-- One line of text to the bytes it stands for: none is an assembly error, a line with no command is no bytes. -/
def assembleText (cs : List Char) : Option (List Byte) :=
  match trimBlanks (stripComment cs) with
  | [] => some []
  | c :: rest =>
    match parseCommand (c :: rest) with
    | some l => (assemble l).map encode
    | none => none

/-- A program, one command per line (R56). -/
def assembleProgram (lines : List (List Char)) : Option (List Byte) :=
  (lines.mapM assembleText).map List.flatten

end Sys2Proof.Machine
end

