-- ==== Sys2Proof/Safety.lean ====
section
/-!
DEFINITION. The terms claims use: the named premises of 70_reset_and_hazards.md R158, and the invariants of the state.
CE cannot go wrong in any other sense: no command faults (60_exceptions.md R130).
-/

namespace Sys2Proof.Machine

/-- `z` is an `S32` (R7). -/
abbrev Fits32 (z : Int) : Prop := -2147483648 ≤ z ∧ z ≤ 2147483647

/-- `T_FINE` is where R28 says a temperature computation leaves it. -/
abbrev TFineInRange (tf : S32) : Prop := -1179648 ≤ tf.toInt ∧ tf.toInt ≤ 1179646

/-- `LAST_T` is where R29 says a temperature computation leaves it. -/
abbrev TempInRange (t : S16) : Prop := -23040 ≤ t.toInt ∧ t.toInt ≤ 23040

/-- No temperature computed since reset: the two registers are as reset left them (R27). -/
abbrev NeverRead (s : State) : Prop := s.lastT = Config.lastTReset ∧ s.tFine = Config.tFineReset s.resets

/-- `T_FINE` and `LAST_T` come from one temperature computation (R37), and lie in its ranges (R28, R29). -/
abbrev FromOneComputation (s : State) : Prop :=
  TFineInRange s.tFine ∧ s.lastT.toInt = (5 * s.tFine.toInt + 128) / 256

/-- The invariant of the two retained registers. -/
def RegistersInv (s : State) : Prop := NeverRead s ∨ FromOneComputation s

/-- `FreshReset` (R158), of the state a run starts in: the 240 bits are those of R27, as the first reset or any later
one left them. What the host has issued by then, and what it has received, is free. -/
def FreshReset (s : State) : Prop :=
  s.cal = Config.calReset s.resets ∧ s.tFine = Config.tFineReset s.resets ∧ s.lastT = Config.lastTReset

/-- A run (R156): from `s0` the commands `is` were executed, in this order, and CE is in the state `s`. The host may
issue more at any moment (R157). A reset ends a run: the state after it starts another. -/
inductive Run (s0 : State) : List Instr → State → Prop where
  | start : Run s0 [] s0
  | issue {is : List Instr} {s : State} (es : List HostEvent) : Run s0 is s → Run s0 is (s.withInput (s.input ++ es))
  | command {is : List Instr} {s s' : State} (i : Instr) (rest : List HostEvent) :
      Run s0 is s → fetch s.input = .command i rest → step s = .next s' → Run s0 (is ++ [i]) s'

/-- `i` is no `LDCAL`. -/
def NotLoad : Instr → Prop
  | .ldcal _ => False
  | .cmpt _ => True
  | .cmpp _ => True
  | .conv _ _ => True
  | .rdlt => True

/-- The raw temperature of a command that writes `T_FINE` (R20): `CMPT`, `CONV`. -/
def temperatureOf : Instr → Option U20
  | .ldcal _ => none
  | .cmpt rawT => some (rawAssemble rawT)
  | .cmpp _ => none
  | .conv _ rawT => some (rawAssemble rawT)
  | .rdlt => none

/-- `CalLoaded(c)` (R158), of the commands a run executed: an `LDCAL` with `CalEncode(c)`, and no `LDCAL` since. -/
def CalLoaded (c : CalValues) (is : List Instr) : Prop :=
  ∃ before after, is = before ++ .ldcal (calEncode c) :: after ∧ ∀ i ∈ after, NotLoad i

/-- `TFineFresh(rawT)` (R158), of the commands a run executed: the last one that wrote `T_FINE` was a `CMPT` or `CONV`
with this raw value, and no `LDCAL` came after it. -/
def TFineFresh (rawT : U20) (is : List Instr) : Prop :=
  ∃ before i after, is = before ++ i :: after ∧ temperatureOf i = some rawT ∧
    ∀ j ∈ after, NotLoad j ∧ temperatureOf j = none

/-- `NonDegenerate` (R158): `dig_P1` is at least 2. -/
abbrev NonDegenerate (s : State) : Prop := 2 ≤ s.cal[3].toNat

/-- `WellFormedStream` and `SingleStream` (R158): what the host has issued is whole packets of commands, one after the
other. -/
abbrev WellFormedStream (is : List Instr) (s : State) : Prop := s.input = (is.flatMap encode).map .byte

/-- Commands done one at a time, each on the state the one before left (20_memory.md R40). -/
def runAll : List Instr → State → Host.Outcome State Fault Refusal
  | [], s => .next s
  | i :: is, s =>
    match exec i s with
    | .next s' => runAll is s'
    | .fault f => .fault f
    | .refused r => .refused r

/-- `NoWrap` (R158) for `CompT`: the steps of R77 that can wrap do not. -/
def NoWrapT (rawT : U20) (c : TempCoef) : Prop :=
  Fits32 ((tempA rawT c).toInt * c.t2.toInt) ∧
  Fits32 ((tempD rawT c).toInt * (tempD rawT c).toInt) ∧
  Fits32 ((asr32 (tempSq rawT c) 12).toInt * c.t3.toInt)

/-- `NoWrap` (R158) for steps P1 to P6 of `CompP`: the signed steps of R77 that can wrap do not. -/
def NoWrapDivisor (tFine : S32) (c : PressCoef) : Prop :=
  let v := pressVar1a tFine
  Fits32 ((pressQ v).toInt * (pressQ v).toInt) ∧
  Fits32 ((asr32 (pressQQ v) 11).toInt * c.p6.toInt) ∧
  Fits32 (v.toInt * c.p5.toInt) ∧
  Fits32 ((mul32 v c.p5).toInt * 2) ∧
  Fits32 ((pressVar2a v c).toInt + (shl32 (mul32 v c.p5) 1).toInt) ∧
  Fits32 ((asr32 (pressVar2b v c) 2).toInt + (shl32 c.p4 16).toInt) ∧
  Fits32 (c.p3.toInt * (asr32 (pressQQ v) 13).toInt) ∧
  Fits32 (c.p2.toInt * v.toInt) ∧
  Fits32 ((add32 32768 (pressVar1b v c)).toInt * c.p1.toInt)

/-- `NoWrap` (R158) for steps P10 and P11 of `CompP` at the `p` of step P9. -/
def NoWrapCorr (p1 : U32) (c : PressCoef) : Prop :=
  Fits32 (c.p9.toInt * (asS32 (pressW p1)).toInt) ∧
  Fits32 ((asS32 (lsr32 p1 2)).toInt * c.p8.toInt)

/-- `NoWrap` (R158) for the whole of `CompP`. -/
def NoWrapP (rawP : U20) (tFine : S32) (c : PressCoef) : Prop :=
  NoWrapDivisor tFine c ∧
  ∀ h : pressVar1c (pressVar1a tFine) c ≠ 0,
    NoWrapCorr
      (pressP1 (pressP0 rawP (pressVar2c (pressVar1a tFine) c)) (asU32 (pressVar1c (pressVar1a tFine) c)) h) c

end Sys2Proof.Machine
end

