-- ==== Sys2Proof/Certificates/Slice0/Obligations.lean ====
section
/-!
DEFINITION. The statements for the provers, each from a rule of spec/ named in its docstring. They compare the model
with Reference.lean, where the pipelines are written a second time without any definition of the model.
-/

open Sys2Proof Sys2Proof.Machine

/-! ### Reset and the step -/

/-- R27 for `LAST_T`. That `CAL` and `T_FINE` hold opaque constants is the model's rendering of "unspecified" (log entries 1 and 2), the empty stream and response list are log entries 3 and 4. -/
def Obligations.ResetStateIsAsSpecified : Prop :=
  State.reset.lastT.toInt = -27315 ∧ State.reset.lastT = 0x954D ∧ State.reset.cal = Config.calReset 0 ∧
  State.reset.tFine = Config.tFineReset 0 ∧ State.reset.input = [] ∧ State.reset.responses = []

/-- R146, "It sets the state to the values of `10_state.md` rule R27". The fresh contents are the model's choice of log entries 1 and 2, the kept responses that of entry 4, and the second disjunct, a `resetInCommand` with no command before it, that of entry 7. -/
def Obligations.ResetEventGivesTheResetState : Prop :=
  ∀ (s : State) (es : List HostEvent), s.input = .reset :: es ∨ s.input = .resetInCommand :: es →
    step s = .next
      { cal := Config.calReset (s.resets + 1), tFine := Config.tFineReset (s.resets + 1),
        lastT := BitVec.ofInt 16 (-27315), input := es, responses := s.responses, resets := s.resets + 1 }

/-- R146, "A reset that arrives while a command is in progress abandons the command". The two ways a reset can arrive are log entry 7. -/
def Obligations.ResetAbandonsTheCommandInProgress : Prop :=
  (∀ (s : State) (op : Byte) (body : List Byte) (f : Format) (e : HostEvent) (es : List HostEvent),
    formatOf op = some f → body.length + 1 < f.bytes → e = .reset ∨ e = .resetInCommand →
    s.input = (op :: body).map .byte ++ e :: es → step s = step { s with input := .reset :: es }) ∧
  (∀ (s : State) (i : Instr) (es : List HostEvent),
    s.input = (encode i).map .byte ++ .resetInCommand :: es → step s = step { s with input := .reset :: es })

/-- R146, "It is the only way `LAST_T` returns to the sentinel". -/
def Obligations.OnlyResetRestoresTheSentinel : Prop :=
  ∀ s s' : State, step s = .next s' → s'.lastT.toInt = -27315 →
    s'.lastT = s.lastT ∨ (∃ rest, fetch s.input = .reset rest)

/-- R6, "with no command pending no state changes". -/
def Obligations.IdleStateIsUnchanged : Prop :=
  ∀ s : State, s.input = [] → step s = .next s

/-- R40, R45. What the step adds around `exec`: it takes the packet from the stream. -/
def Obligations.StepRunsTheDecodedCommand : Prop :=
  ∀ (s : State) (i : Instr) (rest : List Byte), decode (leadingBytes s.input) = .ok (i, rest) →
    (rest.map HostEvent.byte ++ afterBytes s.input).head? ≠ some .resetInCommand →
    step s = exec i { s with input := rest.map .byte ++ afterBytes s.input }

/-- R45 to R47 and R40 together: encoding, framing and the step. -/
def Obligations.StepRunsTheIssuedPacket : Prop :=
  ∀ (s : State) (i : Instr) (es : List HostEvent), s.input = (encode i).map .byte ++ es →
    es.head? ≠ some .resetInCommand → step s = exec i { s with input := es }

/-- R52. The refusal is log entry 5. -/
def Obligations.ReservedOpcodesAreRefused : Prop :=
  (∀ (op : Byte) (body : List Byte), op.toNat = 0 ∨ 6 ≤ op.toNat → decode (op :: body) = .error (.reserved op)) ∧
  (∀ (s : State) (op : Byte) (es : List HostEvent), op.toNat = 0 ∨ 6 ≤ op.toNat → s.input = .byte op :: es →
    step s = .refused (.reservedOpcode op)) ∧
  (∀ op : Byte, 1 ≤ op.toNat → op.toNat ≤ 5 → ∃ f, formatOf op = some f)

/-- R53. The refusal is log entry 6. -/
def Obligations.ShortPacketsAreRefused : Prop :=
  (∀ (op : Byte) (body : List Byte) (f : Format), formatOf op = some f → body.length + 1 < f.bytes →
    decode (op :: body) = .error (.short op (body.length + 1))) ∧
  (∀ (s : State) (op : Byte) (body : List Byte) (f : Format), formatOf op = some f → body.length + 1 < f.bytes →
    s.input = (op :: body).map .byte → step s = .refused (.shortPacket op (body.length + 1)))

/-! ### Encoding -/

/-- R45 to R47, and of R53 "Bytes after the last payload byte are the start of the next packet". -/
def Obligations.DecodeOfEncodeIsTheCommand : Prop :=
  ∀ (i : Instr) (rest : List Byte), decode (encode i ++ rest) = .ok (i, rest)

/-- R45 to R47, the other direction of the round trip. -/
def Obligations.EncodeOfDecodeIsTheBytes : Prop :=
  ∀ (bs : List Byte) (i : Instr) (rest : List Byte), decode bs = .ok (i, rest) → bs = encode i ++ rest

/-- R45 and R53: byte 0 fixes the length, the bytes after it start the next packet. -/
def Obligations.StreamOfPacketsDecodesInOrder : Prop :=
  ∀ is : List Instr, decodeStream (is.flatMap encode).length (is.flatMap encode) = .ok is

/-- R55. The spec marks the rule "[derived: from ...]". -/
def Obligations.PacketLengthIsFixedByByteZero : Prop :=
  (∀ (op : Byte) (body : List Byte) (i : Instr) (rest : List Byte), decode (op :: body) = .ok (i, rest) →
    (op = 0x01 → body.length + 1 = 25 + rest.length) ∧ (op = 0x02 → body.length + 1 = 4 + rest.length) ∧
    (op = 0x03 → body.length + 1 = 4 + rest.length) ∧ (op = 0x04 → body.length + 1 = 7 + rest.length) ∧
    (op = 0x05 → body.length + 1 = 1 + rest.length)) ∧
  (∀ (op : Byte) (body : List Byte) (f : Format), formatOf op = some f → f.bytes ≤ body.length + 1 →
    ∃ i rest, decode (op :: body) = .ok (i, rest))

/-- R58, with R46 and R47. The spec marks the rule "[derived: from ...]". -/
def Obligations.WorkedEncodingsAssembleAndDecode : Prop :=
  (assemble .rdlt).map encode = some [0x05] ∧
  (assemble (.cmptr 519888)).map encode = some [0x02, 0x7E, 0xED, 0x00] ∧
  (assemble (.cmppr 415148)).map encode = some [0x03, 0x65, 0x5A, 0xC0] ∧
  (assemble (.convr 415148 519888)).map encode = some [0x04, 0x65, 0x5A, 0xC0, 0x7E, 0xED, 0x00] ∧
  (assemble (.ldcoef ⟨27504, 26435, -1000, 36477, -10685, 3024, 2855, 140, -7, 15500, -14600, 6000⟩)).map encode =
    some [0x01, 0x70, 0x6B, 0x43, 0x67, 0x18, 0xFC, 0x7D, 0x8E, 0x43, 0xD6, 0xD0, 0x0B, 0x27, 0x0B, 0x8C, 0x00,
          0xF9, 0xFF, 0x8C, 0x3C, 0xF8, 0xC6, 0x70, 0x17] ∧
  decode [0x05] = .ok (.rdlt, []) ∧
  decode [0x02, 0x7E, 0xED, 0x00] = .ok (.cmpt ⟨0x7E, 0xED, 0x00⟩, []) ∧
  decode [0x03, 0x65, 0x5A, 0xC0] = .ok (.cmpp ⟨0x65, 0x5A, 0xC0⟩, []) ∧
  decode [0x04, 0x65, 0x5A, 0xC0, 0x7E, 0xED, 0x00] = .ok (.conv ⟨0x65, 0x5A, 0xC0⟩ ⟨0x7E, 0xED, 0x00⟩, []) ∧
  decode [0x01, 0x70, 0x6B, 0x43, 0x67, 0x18, 0xFC, 0x7D, 0x8E, 0x43, 0xD6, 0xD0, 0x0B, 0x27, 0x0B, 0x8C, 0x00,
          0xF9, 0xFF, 0x8C, 0x3C, 0xF8, 0xC6, 0x70, 0x17] = .ok (.ldcal Reference.exampleBlock, [])

/-- R57. -/
def Obligations.PseudoInstructionsAssembleInRange : Prop :=
  (∀ v : CalValues, v.inRange = true →
    assemble (.ldcoef v) = some (.ldcal (calEncode v)) ∧ calValues (calDecode (calEncode v)) = v) ∧
  (∀ v : CalValues, v.inRange = false → assemble (.ldcoef v) = none) ∧
  (∀ r : Int, 0 ≤ r → r ≤ 1048575 →
    ∃ t : RawTriple, assemble (.cmptr r) = some (.cmpt t) ∧ assemble (.cmppr r) = some (.cmpp t) ∧
      (rawAssemble t).toNat = r ∧ t.xlsb.toNat % 16 = 0) ∧
  (∀ rp rt : Int, 0 ≤ rp → rp ≤ 1048575 → 0 ≤ rt → rt ≤ 1048575 →
    ∃ p t : RawTriple, assemble (.convr rp rt) = some (.conv p t) ∧ (rawAssemble p).toNat = rp ∧
      (rawAssemble t).toNat = rt ∧ p.xlsb.toNat % 16 = 0 ∧ t.xlsb.toNat % 16 = 0) ∧
  (∀ r x : Int, r < 0 ∨ 1048575 < r → assemble (.cmptr r) = none ∧ assemble (.cmppr r) = none ∧
    assemble (.convr r x) = none ∧ assemble (.convr x r) = none)

/-- R56. The text syntax of a line is `assembleText`. That a wrong number of operands or a byte outside 0..255 does not assemble is the model's choice, log entry 16: R56 gives the number and the range and not what follows from breaking them. -/
def Obligations.ByteLinesAssembleInOrder : Prop :=
  (∀ b : CalBlock, (assemble (.ldcal (b.toList.map fun x => (x.toNat : Int)))).map encode =
    some (0x01 :: b.toList)) ∧
  (∀ b0 b1 b2 : Byte, (assemble (.cmpt b0.toNat b1.toNat b2.toNat)).map encode = some [0x02, b0, b1, b2] ∧
    (assemble (.cmpp b0.toNat b1.toNat b2.toNat)).map encode = some [0x03, b0, b1, b2]) ∧
  (∀ b0 b1 b2 b3 b4 b5 : Byte,
    (assemble (.conv b0.toNat b1.toNat b2.toNat b3.toNat b4.toNat b5.toNat)).map encode =
      some [0x04, b0, b1, b2, b3, b4, b5]) ∧
  (assemble .rdlt).map encode = some [0x05] ∧
  (∀ bs : List Int, bs.length ≠ 24 → assemble (.ldcal bs) = none) ∧
  (∀ (bs : List Int) (x : Int), x ∈ bs → x < 0 ∨ 255 < x → assemble (.ldcal bs) = none) ∧
  (∀ b0 b1 b2 x : Int, x ∈ [b0, b1, b2] → x < 0 ∨ 255 < x →
    assemble (.cmpt b0 b1 b2) = none ∧ assemble (.cmpp b0 b1 b2) = none) ∧
  (∀ b0 b1 b2 b3 b4 b5 x : Int, x ∈ [b0, b1, b2, b3, b4, b5] → x < 0 ∨ 255 < x →
    assemble (.conv b0 b1 b2 b3 b4 b5) = none)

/-- R48. -/
def Obligations.RawAssembleIsTheTopTwentyBits : Prop :=
  (∀ t : RawTriple, rawAssemble t = (t.msb ++ t.lsb ++ t.xlsb).extractLsb' 4 20 ∧
    (rawAssemble t).toNat = t.msb.toNat * 4096 + t.lsb.toNat * 16 + t.xlsb.toNat / 16 ∧
    (zext20 (rawAssemble t)).toInt = (rawAssemble t).toNat) ∧
  rawAssemble ⟨0x7E, 0xED, 0x00⟩ = 519888

/-- R49. -/
def Obligations.PaddingBitsAreIgnored : Prop :=
  (∀ a b c c' : Byte, c.toNat / 16 = c'.toNat / 16 →
    rawAssemble ⟨a, b, c⟩ = rawAssemble ⟨a, b, c'⟩ ∧
    (∀ s : State, exec (.cmpt ⟨a, b, c⟩) s = exec (.cmpt ⟨a, b, c'⟩) s ∧
      exec (.cmpp ⟨a, b, c⟩) s = exec (.cmpp ⟨a, b, c'⟩) s ∧
      (∀ t : RawTriple, exec (.conv ⟨a, b, c⟩ t) s = exec (.conv ⟨a, b, c'⟩ t) s ∧
        exec (.conv t ⟨a, b, c⟩) s = exec (.conv t ⟨a, b, c'⟩) s))) ∧
  rawAssemble ⟨0x65, 0x5A, 0xC0⟩ = 415148 ∧ rawAssemble ⟨0x65, 0x5A, 0xCF⟩ = 415148

/-- R51. The spec marks the rule "[derived: from ...]". -/
def Obligations.RawBytesInvertsRawAssemble : Prop :=
  (∀ r : U20, (rawBytes r).msb.toNat = r.toNat / 4096 ∧ (rawBytes r).lsb.toNat = r.toNat / 16 % 256 ∧
    (rawBytes r).xlsb.toNat = r.toNat % 16 * 16 ∧ rawAssemble (rawBytes r) = r) ∧
  (∀ t : RawTriple, rawBytes (rawAssemble t) = t ↔ t.xlsb.toNat % 16 = 0) ∧
  rawBytes 415148 = ⟨0x65, 0x5A, 0xC0⟩

/-! ### The calibration family -/

/-- R83: `out[k] = b[2k+1] ++ b[2k]`, for every block. -/
def Obligations.CalDecodeIsLittleEndian : Prop :=
  ∀ (b : CalBlock) (k : Fin 12),
    (calDecode b)[k] = b[2 * k.val + 1]'(by omega) ++ b[2 * k.val]'(by omega) ∧
    ((calDecode b)[k]).toNat = (b[2 * k.val + 1]'(by omega)).toNat * 256 + (b[2 * k.val]'(by omega)).toNat

/-- R84. -/
def Obligations.LdcalLoadsAllTwelveLatches : Prop :=
  ∀ (b : CalBlock) (s : State), ∃ w : CalPatterns,
    exec (.ldcal b) s = .next { s with cal := w, responses := s.responses ++ [.done] } ∧
    ∀ k : Fin 12, w[k] = b[2 * k.val + 1]'(by omega) ++ b[2 * k.val]'(by omega)

/-- R17. -/
def Obligations.TypedReadsWidenByValue : Prop :=
  ∀ cal : CalPatterns,
    (tempCoef cal).t1.toInt = cal[0].toNat ∧ (tempCoef cal).t2.toInt = cal[1].toInt ∧
    (tempCoef cal).t3.toInt = cal[2].toInt ∧ (pressCoef cal).p1.toInt = cal[3].toNat ∧
    (pressCoef cal).p2.toInt = cal[4].toInt ∧ (pressCoef cal).p3.toInt = cal[5].toInt ∧
    (pressCoef cal).p4.toInt = cal[6].toInt ∧ (pressCoef cal).p5.toInt = cal[7].toInt ∧
    (pressCoef cal).p6.toInt = cal[8].toInt ∧ (pressCoef cal).p7.toInt = cal[9].toInt ∧
    (pressCoef cal).p8.toInt = cal[10].toInt ∧ (pressCoef cal).p9.toInt = cal[11].toInt ∧
    (∀ k : Fin 12, cal[k].toNat ≤ 65535 ∧ -32768 ≤ cal[k].toInt ∧ cal[k].toInt ≤ 32767)

/-- R86. -/
def Obligations.CalibrationBlockRoundTrips : Prop :=
  (∀ (v : CalValues) (s : State), v.inRange = true →
    ∃ s', exec (.ldcal (calEncode v)) s = .next s' ∧ calValues s'.cal = v) ∧
  (∀ b : CalBlock, calEncode (calValues (calDecode b)) = b)

/-! ### Arithmetic -/

/-- R65. -/
def Obligations.SignedOperationsWrapModulo : Prop :=
  (∀ a b : S32,
    ((add32 a b).toInt - (a.toInt + b.toInt)) % 4294967296 = 0 ∧
    ((sub32 a b).toInt - (a.toInt - b.toInt)) % 4294967296 = 0 ∧
    ((mul32 a b).toInt - (a.toInt * b.toInt)) % 4294967296 = 0 ∧
    (Fits32 (a.toInt + b.toInt) → (add32 a b).toInt = a.toInt + b.toInt) ∧
    (Fits32 (a.toInt - b.toInt) → (sub32 a b).toInt = a.toInt - b.toInt) ∧
    (Fits32 (a.toInt * b.toInt) → (mul32 a b).toInt = a.toInt * b.toInt)) ∧
  (mul32 65535 65535).toInt = -131071 ∧ (mul32 46341 46341).toInt = -2147479015 ∧
  (add32 2147483647 1).toInt = -2147483648

/-- R66, and R76, which the spec marks as derived from it. -/
def Obligations.RightShiftOfSignedIsFloor : Prop :=
  (∀ (a : S32) (n : Nat), 0 < n → n < 32 →
    (asr32 a n).toInt = a.toInt / 2 ^ n ∧ -(2 ^ (31 - n)) ≤ (asr32 a n).toInt ∧
    (asr32 a n).toInt ≤ 2 ^ (31 - n) - 1 ∧
    (∀ i, i < 32 → (asr32 a n).getLsbD i = if i + n < 32 then a.getLsbD (i + n) else a.getLsbD 31) ∧
    (asr32 (-1) n).toInt = -1 ∧
    (a.toInt < 0 → ¬ (2 ^ n : Int) ∣ a.toInt → (asr32 a n).toInt = a.toInt.tdiv (2 ^ n) - 1)) ∧
  (asr32 (BitVec.ofInt 32 (-6076000)) 14).toInt = -371 ∧
  (asr32 (BitVec.ofInt 32 (-1454136480)) 11).toInt = -710028 ∧
  (asr32 (BitVec.ofInt 32 (-2254535)) 1).toInt = -1127268

/-- R67. -/
def Obligations.LeftShiftDropsTopBits : Prop :=
  (∀ (a : S32) (n : Nat), n < 32 →
    ((shl32 a n).toInt - a.toInt * 2 ^ n) % 4294967296 = 0 ∧
    (∀ i, i < 32 → (shl32 a n).getLsbD i = (decide (n ≤ i) && a.getLsbD (i - n)))) ∧
  (∀ v : U16, (shl32 (zext16 v) 1).toInt = v.toNat * 2) ∧
  (∀ v : S16, (shl32 (sext16 v) 16).toInt = v.toInt * 65536)

/-- R69, R70, R71. That no division by 0 is ever evaluated is in the type of `divu32`. -/
def Obligations.UnsignedOperationsAndDivide : Prop :=
  (∀ u v : U32,
    (addu32 u v).toNat = (u.toNat + v.toNat) % 4294967296 ∧
    ((subu32 u v).toNat : Int) = ((u.toNat : Int) - v.toNat) % 4294967296 ∧
    (mulu32 u v).toNat = u.toNat * v.toNat % 4294967296) ∧
  (∀ (u : U32) (n : Nat), n < 32 → (lsr32 u n).toNat = u.toNat / 2 ^ n ∧ (lsr32 u n).toNat < 2 ^ (32 - n)) ∧
  (∀ (u d : U32) (h : d ≠ 0), (divu32 u d h).toNat = u.toNat / d.toNat) ∧
  divu32 3673406250 36471 (by decide) = 100721 ∧ divu32 3680600000 4294904456 (by decide) = 0

/-- R72, and R75, "Sign combinations of `mul32`", which the spec marks "[derived: from rules R65, R69 and R72]". -/
def Obligations.LowWordIgnoresSignedness : Prop :=
  (∀ a : S32, ((asU32 a).toNat : Int) = (if 0 ≤ a.toInt then a.toInt else a.toInt + 4294967296) ∧
    asS32 (asU32 a) = a) ∧
  (∀ u : U32, (asS32 u).toInt = (if u.toNat < 2147483648 then (u.toNat : Int) else u.toNat - 4294967296) ∧
    asU32 (asS32 u) = u) ∧
  (∀ a b : S32, asU32 (mul32 a b) = mulu32 (asU32 a) (asU32 b) ∧ asU32 (add32 a b) = addu32 (asU32 a) (asU32 b) ∧
    asU32 (sub32 a b) = subu32 (asU32 a) (asU32 b) ∧
    (Fits32 (a.toInt * b.toInt) → (mul32 a b).toInt = a.toInt * b.toInt)) ∧
  (mul32 65536 32768).toInt = -2147483648 ∧ (mul32 (BitVec.ofInt 32 (-65536)) 32768).toInt = -2147483648

/-- R77, the rows marked "no". -/
def Obligations.StepsThatCannotWrap : Prop :=
  ∀ (cal : CalPatterns) (rawT : U20) (tf : S32) (p1 : U32),
    let t := tempCoef cal
    let c := pressCoef cal
    let v := pressVar1a tf
    (tempA rawT t).toInt = (rawT.toNat : Int) / (8 : Int) - cal[0].toNat * 2 ∧
    (tempD rawT t).toInt = (rawT.toNat : Int) / (16 : Int) - cal[0].toNat ∧
    (tempFine rawT t).toInt = (tempVar1 rawT t).toInt + (tempVar2 rawT t).toInt ∧
    (mul32 (tempFine rawT t) 5).toInt = (tempFine rawT t).toInt * 5 ∧
    (add32 (mul32 (tempFine rawT t) 5) 128).toInt = (tempFine rawT t).toInt * 5 + 128 ∧
    v.toInt = tf.toInt / 2 - 64000 ∧
    (shl32 c.p4 16).toInt = cal[6].toInt * 65536 ∧
    (add32 (pressX v c) (pressY v c)).toInt = (pressX v c).toInt + (pressY v c).toInt ∧
    (add32 32768 (pressVar1b v c)).toInt = 32768 + (pressVar1b v c).toInt ∧
    (add32 (add32 (pressVar1d p1 c) (pressVar2d p1 c)) c.p7).toInt =
      (pressVar1d p1 c).toInt + (pressVar2d p1 c).toInt + cal[9].toInt ∧
    (p1.toNat < 2147483648 → (mod32 ((p1.toNat : Int) * 2)).toNat = p1.toNat * 2)

/-- R77, the rows with "exactly when". -/
def Obligations.ProductsThatWrapExactlyWhen : Prop :=
  ∀ (cal : CalPatterns) (rawT : U20) (tf : S32) (p1 : U32),
    let t := tempCoef cal
    let c := pressCoef cal
    let v := pressVar1a tf
    let d := (tempD rawT t).toInt
    let q := (pressQ v).toInt
    let n := ((32768 : Int) + (pressVar1b v c).toInt) * (cal[3].toNat : Int)
    ((tempSq rawT t).toInt ≠ d * d ↔ d ≤ -46341 ∨ 46341 ≤ d) ∧
    ((pressQQ v).toInt ≠ q * q ↔ q ≤ -46341 ∨ 46341 ≤ q) ∧
    ((mul32 (add32 32768 (pressVar1b v c)) c.p1).toInt ≠ n ↔ 2147483648 ≤ n) ∧
    ((mulu32 (lsr32 p1 3) (lsr32 p1 3)).toNat ≠ (p1.toNat / 8) * (p1.toNat / 8) ↔ 524288 ≤ p1.toNat)

/-- R77, its last paragraph, with the premise `NoWrap` of R158. -/
def Obligations.ExampleCoefficientsDoNotWrap : Prop :=
  (∀ rawT : U20, NoWrapT rawT (tempCoef Reference.exampleCal)) ∧
  (∀ tf : S32, -242720 ≤ tf.toInt → tf.toInt ≤ 498727 → NoWrapDivisor tf (pressCoef Reference.exampleCal)) ∧
  (∀ tf : S32, tf.toInt = -242721 ∨ tf.toInt = 498728 →
    (pressQQ (pressVar1a tf)).toInt ≠ (pressQ (pressVar1a tf)).toInt * (pressQ (pressVar1a tf)).toInt) ∧
  (∀ p1 : U32, p1.toNat ≤ 300000 → NoWrapCorr p1 (pressCoef Reference.exampleCal))

/-! ### Temperature -/

/-- R90. -/
def Obligations.CompTIsTheListing : Prop :=
  ∀ (rawT : U20) (c : TempCoef), compT rawT c = Reference.listingT rawT c

/-- R92. -/
def Obligations.CmptWritesBothTemperatureRegisters : Prop :=
  ∀ (t : RawTriple) (s : State),
    let r := Reference.listingT (Reference.rawOf t) (Reference.tempArgs s.cal)
    exec (.cmpt t) s =
      .next { s with tFine := r.1, lastT := r.2, responses := s.responses ++ [.temperature r.1 r.2] }

/-- R93. It holds for all 32-bit coefficients, hence for the typed reads. The spec marks the rule "[derived: from ...]". -/
def Obligations.TemperatureStepRanges : Prop :=
  ∀ (rawT : U20) (c : TempCoef),
    let tf := tempFine rawT c
    (-1048576 : Int) ≤ (tempVar1 rawT c).toInt ∧ (tempVar1 rawT c).toInt ≤ 1048575 ∧
    -131072 ≤ (tempVar2 rawT c).toInt ∧ (tempVar2 rawT c).toInt ≤ 131071 ∧
    tf.toInt = (tempVar1 rawT c).toInt + (tempVar2 rawT c).toInt ∧
    -1179648 ≤ tf.toInt ∧ tf.toInt ≤ 1179646 ∧
    (tempT32 tf).toInt = (tf.toInt * 5 + 128) / 256 ∧
    -23040 ≤ (tempT32 tf).toInt ∧ (tempT32 tf).toInt ≤ 23040 ∧
    (compT rawT c).1 = tf ∧ (compT rawT c).2.toInt = (tempT32 tf).toInt

/-- R95, R94. The spec marks the rule "[derived: from ...]". -/
def Obligations.TemperatureRoundsHalfUp : Prop :=
  (∀ tf : S32, TFineInRange tf → (tempT32 tf).toInt = (5 * tf.toInt + 128) / 256 ∧
    2 * (5 * tf.toInt) < 256 * (2 * (tempT32 tf).toInt + 1) ∧
    256 * (2 * (tempT32 tf).toInt - 1) ≤ 2 * (5 * tf.toInt)) ∧
  (tempT32 (BitVec.ofInt 32 (-1))).toInt = 0 ∧ (tempT32 (BitVec.ofInt 32 (-26))).toInt = -1 ∧
  (tempT32 25).toInt = 0 ∧ (tempT32 26).toInt = 1 ∧
  (let c := tempCoef Reference.exampleCal
   (tempA 0 c).toInt = -55008 ∧ (mul32 (tempA 0 c) c.t2).toInt = -1454136480 ∧ (tempVar1 0 c).toInt = -710028 ∧
   (tempD 0 c).toInt = -27504 ∧ (tempSq 0 c).toInt = 756470016 ∧ (asr32 (tempSq 0 c) 12).toInt = 184685 ∧
   (mul32 (asr32 (tempSq 0 c) 12) c.t3).toInt = -184685000 ∧ (tempVar2 0 c).toInt = -11273 ∧
   (compT 0 c).1.toInt = -721301 ∧ (compT 0 c).2.toInt = -14088)

/-- R28. The spec marks the rule "[derived: from ...]". -/
def Obligations.TFineRangeAfterTemperature : Prop :=
  ∀ (p t : RawTriple) (s : State),
    (∃ s', exec (.cmpt t) s = .next s' ∧ -1179648 ≤ s'.tFine.toInt ∧ s'.tFine.toInt ≤ 1179646) ∧
    (∃ s', exec (.conv p t) s = .next s' ∧ -1179648 ≤ s'.tFine.toInt ∧ s'.tFine.toInt ≤ 1179646)

/-- R29. The spec marks the rule "[derived: from ...]". -/
def Obligations.LastTStaysInItsSet : Prop :=
  (State.reset.lastT.toInt = -27315) ∧
  (∀ s s' : State, s.lastT.toInt = -27315 ∨ TempInRange s.lastT → step s = .next s' →
    s'.lastT.toInt = -27315 ∨ TempInRange s'.lastT) ∧
  (∀ (rawT : U20) (c : TempCoef), (compT rawT c).2.toInt = (tempT32 (compT rawT c).1).toInt ∧
    TempInRange (compT rawT c).2 ∧ (compT rawT c).2.toInt ≠ -27315)

/-- R27, R133, and the premise `FreshReset` of R158. It names the free values of log entries 1 and 2 and holds whatever they are. -/
def Obligations.RegistersInvHoldsAtReset : Prop :=
  RegistersInv State.reset ∧ FreshReset State.reset ∧ (∀ s : State, FreshReset s.applyReset) ∧
  (∀ s : State, FreshReset s → RegistersInv s)

/-- R37, "no command ever sees ... a `T_FINE` and `LAST_T` from two different temperature computations", with R28, R29 and R95. The reset half names the free value of log entry 2 and holds whatever that value is. -/
def Obligations.StepKeepsRegistersInv : Prop :=
  ∀ s s' : State, RegistersInv s → step s = .next s' → RegistersInv s'

/-- R149, "Such a `CMPT` or `CONV` does write `T_FINE` and `LAST_T`, so afterwards `RDLT` no longer returns the sentinel". It holds for every content of the latches, so for every reset content. -/
def Obligations.FirstTemperatureEndsNeverRead : Prop :=
  ∀ (p t : RawTriple) (s : State),
    (∃ s' r, exec (.cmpt t) s = .next s' ∧ r.toInt ≠ -27315 ∧
      exec .rdlt s' = .next { s' with responses := s'.responses ++ [.lastTemp r] }) ∧
    (∃ s' r, exec (.conv p t) s = .next s' ∧ r.toInt ≠ -27315 ∧
      exec .rdlt s' = .next { s' with responses := s'.responses ++ [.lastTemp r] })

/-- R77, R90 and the premises `NoWrap`, `CalLoaded` and `TFineFresh` of R158; the form of a run is log entry 17. -/
def Obligations.TemperatureWithoutWrapIsExact : Prop :=
  (∀ (cal : CalPatterns) (rawT : U20), NoWrapT rawT (tempCoef cal) →
    let tf := Reference.exactTFine rawT.toNat (calValues cal)
    (compT rawT (tempCoef cal)).1.toInt = tf ∧ (compT rawT (tempCoef cal)).2.toInt = (5 * tf + 128) / 256) ∧
  (∀ (s0 s : State) (is : List Instr) (c : CalValues) (rawT : U20), Run s0 is s → CalLoaded c is → TFineFresh rawT is →
    c.inRange = true → NoWrapT rawT (tempCoef s.cal) →
    let tf := Reference.exactTFine rawT.toNat c
    s.tFine.toInt = tf ∧ s.lastT.toInt = (5 * tf + 128) / 256)

/-! ### Pressure -/

/-- R100, R102. -/
def Obligations.CompPIsTheListing : Prop :=
  ∀ (rawP : U20) (tf : S32) (c : PressCoef), compP rawP tf c = Reference.listingP rawP tf c

/-- R104. -/
def Obligations.CmppRespondsAndWritesNothing : Prop :=
  ∀ (p : RawTriple) (s : State),
    exec (.cmpp p) s = .next { s with
      responses := s.responses ++
        [.pressure (Reference.listingP (Reference.rawOf p) s.tFine (Reference.pressArgs s.cal))] }

/-- R101 for the first clause; the second, `dig_P1` = 0, is R106, which the spec marks "[derived: from rule R100 and ...]". That no division by 0 is evaluated is in the type of `divu32`. -/
def Obligations.ZeroDivisorGivesZero : Prop :=
  (∀ (rawP : U20) (tf : S32) (c : PressCoef), Reference.listingDivisor tf c = 0 → compP rawP tf c = 0) ∧
  (∀ (p t : RawTriple) (s : State), s.cal[3] = 0 →
    (∃ s', exec (.cmpp p) s = .next s' ∧ s'.responses = s.responses ++ [.pressure 0]) ∧
    (∃ s', exec (.conv p t) s = .next s' ∧ s'.responses = s.responses ++ [.pressure 0]))

/-- R106. The spec marks the rule "[derived: from ...]". -/
def Obligations.GuardFiresExactlyWhen : Prop :=
  (∀ (cal : CalPatterns) (tf : S32),
    let c := pressCoef cal
    let v := pressVar1a tf
    let b := (pressVar1b v c).toInt
    (-8192 : Int) ≤ b ∧ b ≤ 8191 ∧ 24576 ≤ (add32 32768 (pressVar1b v c)).toInt ∧
    (add32 32768 (pressVar1b v c)).toInt ≤ 40959 ∧
    (pressVar1c v c = 0 ↔ cal[3].toNat = 0 ∨ (cal[3].toNat = 1 ∧ b < 0)) ∧
    (2 ≤ cal[3].toNat → pressVar1c v c ≠ 0) ∧
    (2 ≤ cal[3].toNat → cal[3].toNat ≤ 52430 → 0 < (pressVar1c v c).toInt)) ∧
  (∀ (rawP : U20) (tf : S32), compP rawP tf ⟨0, 0, 0, 0, 0, 0, 0, 0, 0⟩ = 0)

/-- R107. The spec marks the rule "[derived: from ...]". -/
def Obligations.PressureStepRanges : Prop :=
  ∀ (cal : CalPatterns) (tf : S32) (p1 : U32),
    let c := pressCoef cal
    let v := pressVar1a tf
    (-1073805824 : Int) ≤ v.toInt ∧ v.toInt ≤ 1073677823 ∧
    (TFineInRange tf → -653824 ≤ v.toInt ∧ v.toInt ≤ 525823) ∧
    -8192 ≤ (pressVar1b v c).toInt ∧ (pressVar1b v c).toInt ≤ 8191 ∧
    -65536 ≤ (pressVar1c v c).toInt ∧ (pressVar1c v c).toInt ≤ 65535 ∧
    (pressW p1).toNat < 524288 ∧ (lsr32 p1 2).toNat < 1073741824 ∧
    0 ≤ (asS32 (pressW p1)).toInt ∧ 0 ≤ (asS32 (lsr32 p1 2)).toInt ∧
    -524288 ≤ (pressVar1d p1 c).toInt ∧ (pressVar1d p1 c).toInt ≤ 524287 ∧
    -262144 ≤ (pressVar2d p1 c).toInt ∧ (pressVar2d p1 c).toInt ≤ 262143 ∧
    -51200 ≤ (pressCorr p1 c).toInt ∧ (pressCorr p1 c).toInt ≤ 51199

/-- R103. -/
def Obligations.TwoBranchScaling : Prop :=
  (∀ (p0 dv : U32) (h : dv ≠ 0),
    let q := (pressP1 p0 dv h).toNat
    (p0.toNat < 2147483648 → q = 2 * p0.toNat / dv.toNat) ∧
    (2147483648 ≤ p0.toNat → q = 2 * (p0.toNat / dv.toNat) % 4294967296 ∧ q % 2 = 0 ∧
      (4294967296 ≤ 2 * (p0.toNat / dv.toNat) ↔ dv.toNat = 1) ∧
      (dv.toNat ≠ 1 → q ≤ 2 * p0.toNat / dv.toNat ∧ 2 * p0.toNat / dv.toNat ≤ q + 1))) ∧
  (let c := pressCoef Reference.exampleCal
   let v := pressVar1a 128422
   pressVar1c v c = 36471 ∧ pressP0 315698 (pressVar2c v c) = 2147484375 ∧
   pressP1 2147484375 36471 (by decide) = 117762 ∧ pressP0 315699 (pressVar2c v c) = 2147481250 ∧
   pressP1 2147481250 36471 (by decide) = 117763)

/-- R104, corner case (c). -/
def Obligations.NegativeDivisorGivesSmallQuotient : Prop :=
  ∀ (cal : CalPatterns) (tf : S32) (p0 : U32),
    let d := pressVar1c (pressVar1a tf) (pressCoef cal)
    d.toInt < 0 → 52431 ≤ cal[3].toNat ∧ (asU32 d).toNat = d.toInt + 4294967296 ∧
      ∀ h : d ≠ 0,
        (p0.toNat < 2147483648 → pressP1 p0 (asU32 d) h = 0 ∨ pressP1 p0 (asU32 d) h = 1) ∧
        (2147483648 ≤ p0.toNat → pressP1 p0 (asU32 d) h = 0 ∨ pressP1 p0 (asU32 d) h = 2)

/-- R110. The spec marks the rule "[derived: from ...]". -/
def Obligations.PressureDependsOnTFineThroughVar1a : Prop :=
  (∀ (rawP : U20) (tf tf' : S32) (c : PressCoef), pressVar1a tf = pressVar1a tf' →
    compP rawP tf c = compP rawP tf' c) ∧
  (∀ (rawP : U20) (tf : S32) (c : PressCoef), compP rawP (tf ^^^ 1) c = compP rawP tf c) ∧
  compP 415148 128422 (pressCoef Reference.exampleCal) = 100656 ∧
  compP 415148 (BitVec.ofInt 32 (-64736)) (pressCoef Reference.exampleCal) = 94918

/-- R108. The spec marks the rule "[derived: from ...]". -/
def Obligations.ZeroPressureWithoutGuard : Prop :=
  let c := { pressCoef Reference.exampleCal with p1 := 65535, p7 := 0 }
  let v := pressVar1a 0
  (pressVar1c v c).toInt = -62840 ∧ (asU32 (pressVar1c v c)).toNat = 4294904456 ∧ ¬ guardFires (pressVar1c v c) ∧
  pressP1 (pressP0 415148 (pressVar2c v c)) 4294904456 (by decide) = 0 ∧ pressCorr 0 c = 0 ∧ compP 415148 0 c = 0

/-- R77, R104 and the premises `NoWrap`, `CalLoaded` and `TFineFresh` of R158; the form of a run is log entry 17. -/
def Obligations.PressureWithoutWrapIsExact : Prop :=
  (∀ (cal : CalPatterns) (rawP : U20) (tf : S32), NoWrapP rawP tf (pressCoef cal) →
    ((compP rawP tf (pressCoef cal)).toNat : Int) = Reference.exactP rawP.toNat tf.toInt (calValues cal)) ∧
  (∀ (s0 s : State) (is : List Instr) (c : CalValues) (rawT : U20) (p : RawTriple), Run s0 is s → CalLoaded c is →
    TFineFresh rawT is → c.inRange = true → NoWrapT rawT (tempCoef s.cal) →
    NoWrapP (rawAssemble p) s.tFine (pressCoef s.cal) →
    ∃ pa : U32, exec (.cmpp p) s = .next { s with responses := s.responses ++ [.pressure pa] } ∧
      (pa.toNat : Int) = Reference.exactP (rawAssemble p).toNat (Reference.exactTFine rawT.toNat c) c)

/-! ### Whole-sample conversion and read-back -/

/-- R120. -/
def Obligations.ConvUsesTheNewTFine : Prop :=
  (∀ (p t : RawTriple) (s : State),
    let r := Reference.listingT (Reference.rawOf t) (Reference.tempArgs s.cal)
    exec (.conv p t) s = .next { s with
      tFine := r.1, lastT := r.2,
      responses := s.responses ++
        [.pressure (Reference.listingP (Reference.rawOf p) r.1 (Reference.pressArgs s.cal))] }) ∧
  (∀ (p t : RawTriple) (s : State) (tf : S32) (lt : S16),
    exec (.conv p t) { s with tFine := tf, lastT := lt } = exec (.conv p t) s)

/-- R122. That no reset arrives before a response is the premise on the rest of the stream. The spec marks the rule "[derived: from ...]". -/
def Obligations.ConvIsCmptThenCmpp : Prop :=
  ∀ (p t : RawTriple) (s : State) (es : List HostEvent), es.head? ≠ some .resetInCommand →
    ∃ (s' : State) (tf : S32) (tc : S16) (pa : U32),
      Host.Core.run Sys2Proof.core 1 { s with input := (encode (.conv p t)).map .byte ++ es } =
        .next { s' with responses := s.responses ++ [.pressure pa] } ∧
      Host.Core.run Sys2Proof.core 2
          { s with input := (encode (.cmpt t) ++ encode (.cmpp p)).map .byte ++ es } =
        .next { s' with responses := s.responses ++ [.temperature tf tc, .pressure pa] } ∧
      s'.input = es ∧ s'.cal = s.cal

/-- R121. -/
def Obligations.RdltReadsLastTAndWritesNothing : Prop :=
  (∀ s : State, exec .rdlt s = .next { s with responses := s.responses ++ [.lastTemp s.lastT] }) ∧
  (exec .rdlt State.reset =
    .next { State.reset with responses := [.lastTemp (BitVec.ofInt 16 (-27315))] }) ∧
  (∀ (b : CalBlock) (p : RawTriple) (s : State),
    (∃ s', exec (.ldcal b) s = .next s' ∧ s'.lastT = s.lastT) ∧
    (∃ s', exec (.cmpp p) s = .next s' ∧ s'.lastT = s.lastT) ∧
    (∃ s', exec .rdlt s = .next s' ∧ s'.lastT = s.lastT)) ∧
  (∀ s : State, RegistersInv s → s.lastT.toInt = -27315 ∨ TempInRange s.lastT)

/-- R123 for the first clause; the second, that a `dig_P1` of 0 makes the response 0, is R101 with R106, which the spec marks "[derived: from rule R100 and ...]". -/
def Obligations.ZeroPressureStillWritesTemperature : Prop :=
  (∀ (p t : RawTriple) (s s' : State), exec (.conv p t) s = .next s' →
    s'.responses = s.responses ++ [.pressure 0] →
    (s'.tFine, s'.lastT) = Reference.listingT (Reference.rawOf t) (Reference.tempArgs s.cal)) ∧
  (∀ (p t : RawTriple) (s : State), s.cal[3] = 0 →
    ∃ s', exec (.conv p t) s = .next s' ∧ s'.responses = s.responses ++ [.pressure 0])

/-! ### The whole machine -/

/-- R54; and of R130, "Every command, in every state, with every payload of the right length, completes and responds". -/
def Obligations.EveryCommandCompletesWithOneResponse : Prop :=
  ∀ (i : Instr) (s : State), ∃ (s' : State) (r : Response),
    exec i s = .next s' ∧ s'.responses = s.responses ++ [r] ∧
    match i with
    | .ldcal _ => r = .done
    | .cmpt _ => r = .temperature s'.tFine s'.lastT
    | .cmpp _ => ∃ pa, r = .pressure pa
    | .conv _ _ => ∃ pa, r = .pressure pa
    | .rdlt => r = .lastTemp s.lastT

/-- R18, R20, R21: "No other command touches it". -/
def Obligations.OnlyTheNamedCommandsWrite : Prop :=
  ∀ (i : Instr) (s s' : State), exec i s = .next s' →
    ((∀ b, i ≠ .ldcal b) → s'.cal = s.cal) ∧
    ((∀ t, i ≠ .cmpt t) → (∀ p t, i ≠ .conv p t) → s'.tFine = s.tFine ∧ s'.lastT = s.lastT) ∧
    s'.input = s.input ∧ s'.resets = s.resets ∧ s.responses <+: s'.responses

/-- R38. The spec marks the rule "[derived: from ...]". -/
def Obligations.RepeatingACommandChangesNothing : Prop :=
  ∀ (i : Instr) (s : State), ∃ (s1 : State) (r : Response),
    exec i s = .next s1 ∧ s1.responses = s.responses ++ [r] ∧
    exec i s1 = .next { s1 with responses := s1.responses ++ [r] } ∧
    (∀ p, i = .cmpp p → s1 = { s with responses := s1.responses }) ∧
    (i = .rdlt → s1 = { s with responses := s1.responses })

/-- The lines "State read" of R92, R104, R120, R121, and R105. -/
def Obligations.CommandsReadOnlyWhatTheyName : Prop :=
  (∀ (t : RawTriple) (s s' : State), s.cal[0] = s'.cal[0] → s.cal[1] = s'.cal[1] → s.cal[2] = s'.cal[2] →
    ∃ (tf : S32) (tc : S16),
      exec (.cmpt t) s =
        .next { s with tFine := tf, lastT := tc, responses := s.responses ++ [.temperature tf tc] } ∧
      exec (.cmpt t) s' =
        .next { s' with tFine := tf, lastT := tc, responses := s'.responses ++ [.temperature tf tc] }) ∧
  (∀ (p : RawTriple) (s s' : State), s.tFine = s'.tFine → (∀ k : Fin 12, 3 ≤ k.val → s.cal[k] = s'.cal[k]) →
    ∃ pa : U32, exec (.cmpp p) s = .next { s with responses := s.responses ++ [.pressure pa] } ∧
      exec (.cmpp p) s' = .next { s' with responses := s'.responses ++ [.pressure pa] }) ∧
  (∀ (p t : RawTriple) (s s' : State), s.cal = s'.cal →
    ∃ (tf : S32) (tc : S16) (pa : U32),
      exec (.conv p t) s = .next { s with tFine := tf, lastT := tc, responses := s.responses ++ [.pressure pa] } ∧
      exec (.conv p t) s' =
        .next { s' with tFine := tf, lastT := tc, responses := s'.responses ++ [.pressure pa] }) ∧
  (∀ s s' : State, s.lastT = s'.lastT → ∃ r : Response,
    exec .rdlt s = .next { s with responses := s.responses ++ [r] } ∧
    exec .rdlt s' = .next { s' with responses := s'.responses ++ [r] })

/-- R40. -/
def Obligations.CommandsRunInIssueOrder : Prop :=
  ∀ (is : List Instr) (s : State), s.input = [] →
    Host.Core.run Sys2Proof.core is.length (s.issue is) = runAll is s ∧
    ∃ s', runAll is s = .next s' ∧ s'.input = [] ∧ s'.responses.length = s.responses.length + is.length
end

