-- ==== Sys2Proof/Laws/Arith.lean ====
section
/-!
SUPPORT. What each arithmetic primitive gives: as a signed or unsigned value, and as an operator of a 32-bit machine.
Not in the simp set: a proof names the reading it wants.
-/

namespace Sys2Proof.Machine

/-! ### The value of a primitive -/

theorem wrap32_toInt_of_fits (z : Int) (h : Fits32 z) : (wrap32 z).toInt = z := by
  rw [wrap32, BitVec.toInt_ofInt]
  exact Int.bmod_eq_of_le (by omega) (by omega)

theorem toInt_fits (a : S32) : Fits32 a.toInt := by
  have := a.toInt_lt
  have := a.le_toInt
  constructor <;> omega

theorem add32_toInt (a b : S32) (h : Fits32 (a.toInt + b.toInt)) : (add32 a b).toInt = a.toInt + b.toInt :=
  wrap32_toInt_of_fits _ h

theorem sub32_toInt (a b : S32) (h : Fits32 (a.toInt - b.toInt)) : (sub32 a b).toInt = a.toInt - b.toInt :=
  wrap32_toInt_of_fits _ h

theorem mul32_toInt (a b : S32) (h : Fits32 (a.toInt * b.toInt)) : (mul32 a b).toInt = a.toInt * b.toInt :=
  wrap32_toInt_of_fits _ h

theorem shl32_toInt (a : S32) (n : Nat) (h : Fits32 (a.toInt * 2 ^ n)) : (shl32 a n).toInt = a.toInt * 2 ^ n :=
  wrap32_toInt_of_fits _ h

/-- A right shift never leaves the range, whatever the count. -/
theorem ediv_pow_fits (z : Int) (n : Nat) (h : Fits32 z) : Fits32 (z / 2 ^ n) := by
  have hp : (0 : Int) < 2 ^ n := by positivity
  have h1 : (1 : Int) ≤ 2 ^ n := hp
  constructor
  · rw [Int.le_ediv_iff_mul_le hp]
    nlinarith [h.1]
  · refine Int.lt_add_one_iff.mp (Int.ediv_lt_of_lt_mul hp ?_)
    nlinarith [h.2]

theorem asr32_toInt (a : S32) (n : Nat) : (asr32 a n).toInt = a.toInt / 2 ^ n :=
  wrap32_toInt_of_fits _ (ediv_pow_fits _ n (toInt_fits a))

theorem zext16_toInt (v : U16) : (zext16 v).toInt = v.toNat :=
  wrap32_toInt_of_fits _ (by have := v.isLt; constructor <;> omega)

theorem sext16_toInt (v : S16) : (sext16 v).toInt = v.toInt :=
  wrap32_toInt_of_fits _ (by have := v.toInt_lt; have := v.le_toInt; constructor <;> omega)

theorem zext20_toInt (v : U20) : (zext20 v).toInt = v.toNat :=
  wrap32_toInt_of_fits _ (by have := v.isLt; constructor <;> omega)

theorem mod32_toNat_of_lt (n : Nat) (h : n < 2 ^ 32) : (mod32 (n : Int)).toNat = n := by
  rw [mod32, BitVec.ofInt_natCast, BitVec.toNat_ofNat, Nat.mod_eq_of_lt h]

theorem divu32_toNat (u d : U32) (h : d ≠ 0) : (divu32 u d h).toNat = u.toNat / d.toNat := by
  rw [divu32, BitVec.toNat_ofNat]
  exact Nat.mod_eq_of_lt (lt_of_le_of_lt (Nat.div_le_self _ _) u.isLt)

theorem lsr32_toNat (u : U32) (n : Nat) : (lsr32 u n).toNat = u.toNat / 2 ^ n := by
  rw [lsr32, BitVec.toNat_ofNat]
  exact Nat.mod_eq_of_lt (lt_of_le_of_lt (Nat.div_le_self _ _) u.isLt)

/-! ### The operator a primitive is -/

theorem add32_eq_add (a b : S32) : add32 a b = a + b := by
  rw [add32, wrap32, BitVec.ofInt_add, BitVec.ofInt_toInt, BitVec.ofInt_toInt]

theorem mul32_eq_mul (a b : S32) : mul32 a b = a * b := by
  rw [mul32, wrap32, BitVec.ofInt_mul, BitVec.ofInt_toInt, BitVec.ofInt_toInt]

theorem sub32_eq_sub (a b : S32) : sub32 a b = a - b := by
  apply BitVec.eq_of_toInt_eq
  rw [sub32, wrap32, BitVec.toInt_ofInt, BitVec.toInt_sub]

theorem asr32_eq_sshiftRight (a : S32) (n : Nat) : asr32 a n = a.sshiftRight n := by
  apply BitVec.eq_of_toInt_eq
  rw [asr32_toInt, BitVec.toInt_sshiftRight, Int.shiftRight_eq_div_pow]
  norm_cast

theorem shl32_eq_shiftLeft (a : S32) (n : Nat) : shl32 a n = a <<< n := by
  have : (2 : Int) ^ n = ((2 ^ n : Nat) : Int) := by norm_cast
  rw [shl32, wrap32, BitVec.ofInt_mul, BitVec.ofInt_toInt, this, BitVec.ofInt_natCast,
    BitVec.shiftLeft_eq_mul_twoPow]
  congr 1
  apply BitVec.eq_of_toNat_eq
  simp [BitVec.toNat_twoPow]

theorem addu32_eq_add (u v : U32) : addu32 u v = u + v := by
  rw [addu32, mod32, BitVec.ofInt_add, BitVec.ofInt_natCast, BitVec.ofInt_natCast, BitVec.ofNat_toNat,
    BitVec.ofNat_toNat, BitVec.setWidth_eq, BitVec.setWidth_eq]

theorem mulu32_eq_mul (u v : U32) : mulu32 u v = u * v := by
  rw [mulu32, mod32, BitVec.ofInt_mul, BitVec.ofInt_natCast, BitVec.ofInt_natCast, BitVec.ofNat_toNat,
    BitVec.ofNat_toNat, BitVec.setWidth_eq, BitVec.setWidth_eq]

theorem subu32_eq_sub (u v : U32) : subu32 u v = u - v := by
  rw [sub_eq_add_neg, subu32, mod32, Int.sub_eq_add_neg, BitVec.ofInt_add, BitVec.ofInt_neg,
    BitVec.ofInt_natCast, BitVec.ofInt_natCast, BitVec.ofNat_toNat, BitVec.ofNat_toNat, BitVec.setWidth_eq,
    BitVec.setWidth_eq]

theorem lsr32_eq_ushiftRight (u : U32) (n : Nat) : lsr32 u n = u >>> n := by
  apply BitVec.eq_of_toNat_eq
  rw [lsr32_toNat, BitVec.toNat_ushiftRight, Nat.shiftRight_eq_div_pow]

theorem divu32_eq_udiv (u d : U32) (h : d ≠ 0) : divu32 u d h = u / d := by
  apply BitVec.eq_of_toNat_eq
  rw [divu32_toNat, BitVec.toNat_udiv]

theorem zext16_eq_setWidth (v : U16) : zext16 v = v.setWidth 32 := by
  rw [zext16, wrap32, BitVec.ofInt_natCast, BitVec.ofNat_toNat]

theorem sext16_eq_signExtend (v : S16) : sext16 v = v.signExtend 32 := rfl

theorem zext20_eq_setWidth (v : U20) : zext20 v = v.setWidth 32 := by
  rw [zext20, wrap32, BitVec.ofInt_natCast, BitVec.ofNat_toNat]

theorem trunc16_eq_setWidth (a : S32) : trunc16 a = a.setWidth 16 := by
  apply BitVec.eq_of_toNat_eq
  rw [trunc16, BitVec.extractLsb'_toNat, BitVec.toNat_setWidth, Nat.shiftRight_zero]

end Sys2Proof.Machine
end

