-- ==== Sys2Proof/Laws/State.lean ====
section
/-!
SUPPORT. One lemma per field per update of the state, each true by `rfl`.
-/

namespace Sys2Proof.Machine

/-! ### `State.loadCal` -/

@[simp] theorem State.loadCal_cal (s : State) (w : CalPatterns) :
    (s.loadCal w).cal = w := rfl
@[simp] theorem State.loadCal_tFine (s : State) (w : CalPatterns) :
    (s.loadCal w).tFine = s.tFine := rfl
@[simp] theorem State.loadCal_lastT (s : State) (w : CalPatterns) :
    (s.loadCal w).lastT = s.lastT := rfl
@[simp] theorem State.loadCal_input (s : State) (w : CalPatterns) :
    (s.loadCal w).input = s.input := rfl
@[simp] theorem State.loadCal_responses (s : State) (w : CalPatterns) :
    (s.loadCal w).responses = s.responses := rfl
@[simp] theorem State.loadCal_resets (s : State) (w : CalPatterns) :
    (s.loadCal w).resets = s.resets := rfl

/-! ### `State.writeTemperature` -/

@[simp] theorem State.writeTemperature_cal (s : State) (tf : S32) (tc : S16) :
    (s.writeTemperature tf tc).cal = s.cal := rfl
@[simp] theorem State.writeTemperature_tFine (s : State) (tf : S32) (tc : S16) :
    (s.writeTemperature tf tc).tFine = tf := rfl
@[simp] theorem State.writeTemperature_lastT (s : State) (tf : S32) (tc : S16) :
    (s.writeTemperature tf tc).lastT = tc := rfl
@[simp] theorem State.writeTemperature_input (s : State) (tf : S32) (tc : S16) :
    (s.writeTemperature tf tc).input = s.input := rfl
@[simp] theorem State.writeTemperature_responses (s : State) (tf : S32) (tc : S16) :
    (s.writeTemperature tf tc).responses = s.responses := rfl
@[simp] theorem State.writeTemperature_resets (s : State) (tf : S32) (tc : S16) :
    (s.writeTemperature tf tc).resets = s.resets := rfl

/-! ### `State.respond` -/

@[simp] theorem State.respond_cal (s : State) (r : Response) :
    (s.respond r).cal = s.cal := rfl
@[simp] theorem State.respond_tFine (s : State) (r : Response) :
    (s.respond r).tFine = s.tFine := rfl
@[simp] theorem State.respond_lastT (s : State) (r : Response) :
    (s.respond r).lastT = s.lastT := rfl
@[simp] theorem State.respond_input (s : State) (r : Response) :
    (s.respond r).input = s.input := rfl
@[simp] theorem State.respond_responses (s : State) (r : Response) :
    (s.respond r).responses = s.responses ++ [r] := rfl
@[simp] theorem State.respond_resets (s : State) (r : Response) :
    (s.respond r).resets = s.resets := rfl

/-! ### `State.withInput` -/

@[simp] theorem State.withInput_cal (s : State) (es : List HostEvent) :
    (s.withInput es).cal = s.cal := rfl
@[simp] theorem State.withInput_tFine (s : State) (es : List HostEvent) :
    (s.withInput es).tFine = s.tFine := rfl
@[simp] theorem State.withInput_lastT (s : State) (es : List HostEvent) :
    (s.withInput es).lastT = s.lastT := rfl
@[simp] theorem State.withInput_input (s : State) (es : List HostEvent) :
    (s.withInput es).input = es := rfl
@[simp] theorem State.withInput_responses (s : State) (es : List HostEvent) :
    (s.withInput es).responses = s.responses := rfl
@[simp] theorem State.withInput_resets (s : State) (es : List HostEvent) :
    (s.withInput es).resets = s.resets := rfl

/-! ### `State.withPacket` -/

@[simp] theorem State.withPacket_cal (s : State) (bs : List Byte) :
    (s.withPacket bs).cal = s.cal := rfl
@[simp] theorem State.withPacket_tFine (s : State) (bs : List Byte) :
    (s.withPacket bs).tFine = s.tFine := rfl
@[simp] theorem State.withPacket_lastT (s : State) (bs : List Byte) :
    (s.withPacket bs).lastT = s.lastT := rfl
@[simp] theorem State.withPacket_input (s : State) (bs : List Byte) :
    (s.withPacket bs).input = bs.map .byte := rfl
@[simp] theorem State.withPacket_responses (s : State) (bs : List Byte) :
    (s.withPacket bs).responses = s.responses := rfl
@[simp] theorem State.withPacket_resets (s : State) (bs : List Byte) :
    (s.withPacket bs).resets = s.resets := rfl

/-! ### `State.issueBytes` -/

@[simp] theorem State.issueBytes_cal (s : State) (bs : List Byte) :
    (s.issueBytes bs).cal = s.cal := rfl
@[simp] theorem State.issueBytes_tFine (s : State) (bs : List Byte) :
    (s.issueBytes bs).tFine = s.tFine := rfl
@[simp] theorem State.issueBytes_lastT (s : State) (bs : List Byte) :
    (s.issueBytes bs).lastT = s.lastT := rfl
@[simp] theorem State.issueBytes_input (s : State) (bs : List Byte) :
    (s.issueBytes bs).input = s.input ++ bs.map .byte := rfl
@[simp] theorem State.issueBytes_responses (s : State) (bs : List Byte) :
    (s.issueBytes bs).responses = s.responses := rfl
@[simp] theorem State.issueBytes_resets (s : State) (bs : List Byte) :
    (s.issueBytes bs).resets = s.resets := rfl

/-! ### `State.applyReset` -/

@[simp] theorem State.applyReset_cal (s : State) :
    (s.applyReset).cal = Config.calReset (s.resets + 1) := rfl
@[simp] theorem State.applyReset_tFine (s : State) :
    (s.applyReset).tFine = Config.tFineReset (s.resets + 1) := rfl
@[simp] theorem State.applyReset_lastT (s : State) :
    (s.applyReset).lastT = Config.lastTReset := rfl
@[simp] theorem State.applyReset_input (s : State) :
    (s.applyReset).input = s.input := rfl
@[simp] theorem State.applyReset_responses (s : State) :
    (s.applyReset).responses = s.responses := rfl
@[simp] theorem State.applyReset_resets (s : State) :
    (s.applyReset).resets = s.resets + 1 := rfl

/-- The host's stream and the responses so far do not change what the registers hold, so an update of one commutes
with taking bytes from the stream. -/
theorem State.loadCal_withInput (s : State) (w : CalPatterns) (es : List HostEvent) :
    (s.withInput es).loadCal w = (s.loadCal w).withInput es := rfl

theorem State.writeTemperature_withInput (s : State) (tf : S32) (tc : S16) (es : List HostEvent) :
    (s.withInput es).writeTemperature tf tc = (s.writeTemperature tf tc).withInput es := rfl

theorem State.respond_withInput (s : State) (r : Response) (es : List HostEvent) :
    (s.withInput es).respond r = (s.respond r).withInput es := rfl

end Sys2Proof.Machine
end

