-- ==== Sys2Proof/Laws/Exec.lean ====
section
/-!
SUPPORT. What `exec`, `fetch` and `step` can do, said once: each command's next state, what `exec` leaves alone, and the
three ways a step answers a next state.
-/

namespace Sys2Proof.Machine

/-! ### The next state of each command -/

theorem exec_ldcal (b : CalBlock) (s : State) :
    exec (.ldcal b) s = .next ((s.loadCal (calDecode b)).respond .done) := rfl

theorem exec_cmpt (t : RawTriple) (s : State) :
    exec (.cmpt t) s = .next ((s.writeTemperature (compT (rawAssemble t) (tempCoef s.cal)).1
      (compT (rawAssemble t) (tempCoef s.cal)).2).respond (.temperature
        (compT (rawAssemble t) (tempCoef s.cal)).1 (compT (rawAssemble t) (tempCoef s.cal)).2)) := rfl

theorem exec_cmpp (p : RawTriple) (s : State) :
    exec (.cmpp p) s = .next (s.respond (.pressure (compP (rawAssemble p) s.tFine (pressCoef s.cal)))) := rfl

theorem exec_conv (p t : RawTriple) (s : State) :
    exec (.conv p t) s = .next ((s.writeTemperature (compT (rawAssemble t) (tempCoef s.cal)).1
      (compT (rawAssemble t) (tempCoef s.cal)).2).respond (.pressure
        (compP (rawAssemble p) (compT (rawAssemble t) (tempCoef s.cal)).1 (pressCoef s.cal)))) := rfl

theorem exec_rdlt (s : State) : exec .rdlt s = .next (s.respond (.lastTemp s.lastT)) := rfl

/-- A command is a function of the registers: it does not look at the host's stream and leaves it alone. -/
theorem exec_withInput (i : Instr) (s s' : State) (es : List HostEvent) (h : exec i s = .next s') :
    exec i (s.withInput es) = .next (s'.withInput es) := by
  cases i <;> cases h <;> rfl

theorem exec_input (i : Instr) (s s' : State) (h : exec i s = .next s') : s'.input = s.input := by
  cases i <;> cases h <;> rfl

theorem exec_resets (i : Instr) (s s' : State) (h : exec i s = .next s') : s'.resets = s.resets := by
  cases i <;> cases h <;> rfl

/-! ### A step -/

/-- A step that answers a next state idled, applied a reset, or ran a command. -/
theorem step_cases (s s' : State) (h : step s = .next s') :
    (fetch s.input = .idle ∧ s' = s) ∨
    (∃ rest, fetch s.input = .reset rest ∧ s' = (s.withInput rest).applyReset) ∨
    (∃ i rest, fetch s.input = .command i rest ∧ exec i (s.withInput rest) = .next s') := by
  unfold step at h
  split at h
  next hf => exact .inl ⟨hf, by cases h; rfl⟩
  next rest hf => exact .inr (.inl ⟨rest, hf, by cases h; rfl⟩)
  next i rest hf => exact .inr (.inr ⟨i, rest, hf, h⟩)
  next => cases h
  next => cases h

/-! ### The host's stream -/

@[simp] theorem leadingBytes_byte (b : Byte) (es : List HostEvent) :
    leadingBytes (.byte b :: es) = b :: leadingBytes es := rfl

@[simp] theorem afterBytes_byte (b : Byte) (es : List HostEvent) :
    afterBytes (.byte b :: es) = afterBytes es := rfl

@[simp] theorem leadingBytes_map_append (bs : List Byte) (es : List HostEvent) :
    leadingBytes (bs.map .byte ++ es) = bs ++ leadingBytes es := by
  induction bs with
  | nil => rfl
  | cons b bs ih => exact congrArg (b :: ·) ih

@[simp] theorem afterBytes_map_append (bs : List Byte) (es : List HostEvent) :
    afterBytes (bs.map .byte ++ es) = afterBytes es := by
  induction bs with
  | nil => rfl
  | cons b bs ih => exact ih

/-- The stream is its leading bytes and what stands after them. -/
theorem leadingBytes_append_afterBytes (es : List HostEvent) :
    (leadingBytes es).map HostEvent.byte ++ afterBytes es = es := by
  induction es with
  | nil => rfl
  | cons e es ih =>
    cases e with
    | byte b => exact congrArg (HostEvent.byte b :: ·) ih
    | reset => rfl
    | resetInCommand => rfl

end Sys2Proof.Machine
end

