-- ==== Sys2Proof/Laws/PerInstr.lean ====
section
/-!
SUPPORT. What holds of every command as syntax, one lemma per constructor.
-/

namespace Sys2Proof.Laws.PacketShape

/-- The packet of a command starts with its opcode, and has the length the opcode's format fixes (R46, R47). -/
def Statement (i : Instr) : Prop :=
  (∃ body, encode i = opcodeOf i :: body) ∧ formatOf (opcodeOf i) = some i.format ∧ (encode i).length = i.bytes

theorem ldcal (block : CalBlock) : Statement (.ldcal block) :=
  ⟨⟨block.toList, rfl⟩, rfl, by simp [encode, Instr.bytes, Instr.format, Format.bytes]⟩

theorem cmpt (rawT : RawTriple) : Statement (.cmpt rawT) := ⟨⟨_, rfl⟩, rfl, rfl⟩

theorem cmpp (rawP : RawTriple) : Statement (.cmpp rawP) := ⟨⟨_, rfl⟩, rfl, rfl⟩

theorem conv (rawP rawT : RawTriple) : Statement (.conv rawP rawT) := ⟨⟨_, rfl⟩, rfl, rfl⟩

theorem rdlt : Statement .rdlt := ⟨⟨[], rfl⟩, rfl, rfl⟩

end Sys2Proof.Laws.PacketShape
end

