-- ==== Sys2Proof/Laws/Run.lean ====
section
/-!
SUPPORT. What the premises of 70_reset_and_hazards.md R158 that are about a run say of the state it ends in.
-/

namespace Sys2Proof.Machine

/-! ### `FreshReset` -/

theorem freshReset_reset : FreshReset State.reset := ⟨rfl, rfl, rfl⟩

theorem freshReset_applyReset (s : State) : FreshReset s.applyReset := ⟨rfl, rfl, rfl⟩

/-- What the host has issued does not matter. -/
theorem FreshReset.withInput {s : State} (h : FreshReset s) (es : List HostEvent) : FreshReset (s.withInput es) := h

/-! ### A run goes on, or a reset ends it -/

/-- A step from a state a run ends in: a reset, after which a run may start, or the run goes on, by one command or by
none. -/
theorem Run.step_next {s0 s s' : State} {is : List Instr} (hr : Run s0 is s) (h : step s = .next s') :
    FreshReset s' ∨ Run s0 is s' ∨ ∃ i, Run s0 (is ++ [i]) s' := by
  obtain ⟨-, rfl⟩ | ⟨rest, -, rfl⟩ | ⟨i, rest, hf, -⟩ := step_cases s s' h
  · exact .inr (.inl hr)
  · exact .inl (freshReset_applyReset _)
  · exact .inr (.inr ⟨i, .command i rest hr hf h⟩)

/-! ### What one command does to the registers -/

theorem exec_cal_of_notLoad {i : Instr} {s s' : State} (hi : NotLoad i) (h : exec i s = .next s') :
    s'.cal = s.cal := by
  cases i <;> first | exact hi.elim | (cases h; rfl)

theorem exec_temperature_of_none {i : Instr} {s s' : State} (hi : temperatureOf i = none)
    (h : exec i s = .next s') : s'.tFine = s.tFine ∧ s'.lastT = s.lastT := by
  cases i with
  | ldcal _ => cases h; exact ⟨rfl, rfl⟩
  | cmpt _ => cases hi
  | cmpp _ => cases h; exact ⟨rfl, rfl⟩
  | conv _ _ => cases hi
  | rdlt => cases h; exact ⟨rfl, rfl⟩

theorem exec_temperature_of_some {i : Instr} {rawT : U20} {s s' : State} (hi : temperatureOf i = some rawT)
    (h : exec i s = .next s') : s'.cal = s.cal ∧ (s'.tFine, s'.lastT) = compT rawT (tempCoef s'.cal) := by
  cases i <;> cases hi <;> cases h <;> exact ⟨rfl, rfl⟩

/-! ### A run by its last command -/

/-- A run that executed `is ++ [i]` executed `is`, and then `i` on the registers that left. -/
theorem Run.last {s0 s : State} {is : List Instr} {i : Instr} (hr : Run s0 (is ++ [i]) s) :
    ∃ s1 s2 s3, Run s0 is s1 ∧ s2.cal = s1.cal ∧ s2.tFine = s1.tFine ∧ s2.lastT = s1.lastT ∧ exec i s2 = .next s3 ∧
      s.cal = s3.cal ∧ s.tFine = s3.tFine ∧ s.lastT = s3.lastT := by
  generalize he : is ++ [i] = js at hr
  induction hr with
  | start => simp at he
  | issue es _ ih => exact ih he
  | @command ks t t' k rest hk hf hs _ =>
    obtain ⟨rfl, hki⟩ := List.append_inj' he rfl
    cases hki
    simp only [step, hf] at hs
    exact ⟨t, t.withInput rest, t', hk, rfl, rfl, rfl, hs, rfl, rfl, rfl⟩

/-- What a command establishes and every later one keeps holds at the end of the run. -/
theorem Run.since {s0 : State} {P : State → Prop} {Q : Instr → Prop} {before after : List Instr} {i : Instr} {s : State}
    (hP : ∀ s t : State, s.cal = t.cal → s.tFine = t.tFine → s.lastT = t.lastT → P t → P s)
    (hi : ∀ s s', exec i s = .next s' → P s') (hQ : ∀ j s s', Q j → exec j s = .next s' → P s → P s')
    (ha : ∀ j ∈ after, Q j) (hr : Run s0 (before ++ i :: after) s) : P s := by
  induction after using List.reverseRecOn generalizing s with
  | nil =>
    obtain ⟨s1, s2, s3, -, -, -, -, he, h1, h2, h3⟩ := hr.last
    exact hP _ _ h1 h2 h3 (hi _ _ he)
  | append_singleton after j ih =>
    rw [← List.cons_append, ← List.append_assoc] at hr
    obtain ⟨s1, s2, s3, h, g1, g2, g3, he, h1, h2, h3⟩ := hr.last
    exact hP _ _ h1 h2 h3 (hQ j _ _ (ha j (by simp)) he
      (hP _ _ g1 g2 g3 (ih (fun k hk => ha k (by simp [hk])) h)))

/-- `CalLoaded(c)`: the latches hold what `LDCAL CalEncode(c)` leaves. -/
theorem Run.cal_of_calLoaded {s0 s : State} {is : List Instr} {c : CalValues} (hr : Run s0 is s)
    (hc : CalLoaded c is) : s.cal = calDecode (calEncode c) := by
  obtain ⟨before, after, rfl, ha⟩ := hc
  exact hr.since (P := fun s => s.cal = calDecode (calEncode c)) (fun _ _ h _ _ ht => h.trans ht)
    (fun _ _ h => by cases h; rfl) (fun _ _ _ hj h hs => (exec_cal_of_notLoad hj h).trans hs) ha

/-- `TFineFresh(rawT)`: both registers are those of this raw value under the coefficients the latches hold. -/
theorem Run.registers_of_tFineFresh {s0 s : State} {is : List Instr} {rawT : U20} (hr : Run s0 is s)
    (ht : TFineFresh rawT is) : (s.tFine, s.lastT) = compT rawT (tempCoef s.cal) := by
  obtain ⟨before, i, after, rfl, hi, ha⟩ := ht
  refine hr.since (P := fun s => (s.tFine, s.lastT) = compT rawT (tempCoef s.cal))
    (Q := fun j => NotLoad j ∧ temperatureOf j = none)
    (fun _ _ h1 h2 h3 h => by rw [h1, h2, h3]; exact h) (fun _ _ h => (exec_temperature_of_some hi h).2) ?_ ha
  intro j s s' hj h hs
  obtain ⟨h2, h3⟩ := exec_temperature_of_none hj.2 h
  rw [h2, h3, exec_cal_of_notLoad hj.1 h]
  exact hs

end Sys2Proof.Machine
end

