-- ==== Sys2Proof/Tests/Slice0.lean ====
section
/-!
SUPPORT. The model's own tests. `test_…`: expected results are those of spec/ (the id of the vector is named), worked out
there by hand from the rules. `witness_…`: for each obligation with hypotheses, values that meet them together.
-/

namespace Sys2Proof.Tests

open Sys2Proof Sys2Proof.Machine

/-! ### Small states -/

/-- The latches hold the set G of 95_test_vectors.md section 2. -/
def gState (tFine : S32) (lastT : S16) (input : List HostEvent) : State :=
  { cal := Reference.exampleCal, tFine := tFine, lastT := lastT, input := input, responses := [], resets := 0 }

/-- As `gState`, with `dig_P1` replaced. -/
def g1State (p1 : U16) (tFine : S32) : State :=
  { gState tFine 0 [] with cal := Reference.exampleCal.set 3 p1 }

def nextOf : Host.Outcome State Fault Refusal → Option State
  | .next s => some s
  | _ => none

/-- `T_FINE`, `LAST_T` and the responses after a command. -/
def seen (i : Instr) (s : State) : Option (Int × Int × List Response) :=
  (nextOf (exec i s)).map fun s' => (s'.tFine.toInt, s'.lastT.toInt, s'.responses)

def rawT0 : RawTriple := ⟨0x7E, 0xED, 0x00⟩
def rawP0 : RawTriple := ⟨0x65, 0x5A, 0xC0⟩

/-! ### WellFormed: each check refuses an ill-formed line -/

def gValues : CalValues := ⟨27504, 26435, -1000, 36477, -10685, 3024, 2855, 140, -7, 15500, -14600, 6000⟩

theorem test_wellFormed_accepts : (AsmLine.ldcoef gValues).wellFormed = true ∧
    (AsmLine.ldcal (List.replicate 24 255)).wellFormed = true ∧ (AsmLine.cmpt 0 255 0).wellFormed = true ∧
    (AsmLine.cmptr 0).wellFormed = true ∧ (AsmLine.cmppr 1048575).wellFormed = true ∧
    (AsmLine.convr 1048575 0).wellFormed = true ∧ AsmLine.rdlt.wellFormed = true := by decide

theorem test_wellFormed_refuses_ldcal_count : (AsmLine.ldcal (List.replicate 23 0)).wellFormed = false ∧
    (AsmLine.ldcal (List.replicate 25 0)).wellFormed = false := by decide

theorem test_wellFormed_refuses_ldcal_byte :
    (AsmLine.ldcal (256 :: List.replicate 23 0)).wellFormed = false ∧
    (AsmLine.ldcal (List.replicate 23 0 ++ [-1])).wellFormed = false := by decide

theorem test_wellFormed_refuses_cmpt_byte : (AsmLine.cmpt 256 0 0).wellFormed = false ∧
    (AsmLine.cmpt 0 (-1) 0).wellFormed = false ∧ (AsmLine.cmpt 0 0 256).wellFormed = false := by decide

theorem test_wellFormed_refuses_cmpp_byte : (AsmLine.cmpp (-1) 0 0).wellFormed = false ∧
    (AsmLine.cmpp 0 256 0).wellFormed = false ∧ (AsmLine.cmpp 0 0 (-1)).wellFormed = false := by decide

theorem test_wellFormed_refuses_conv_byte : (AsmLine.conv 256 0 0 0 0 0).wellFormed = false ∧
    (AsmLine.conv 0 256 0 0 0 0).wellFormed = false ∧ (AsmLine.conv 0 0 256 0 0 0).wellFormed = false ∧
    (AsmLine.conv 0 0 0 256 0 0).wellFormed = false ∧ (AsmLine.conv 0 0 0 0 256 0).wellFormed = false ∧
    (AsmLine.conv 0 0 0 0 0 256).wellFormed = false := by decide

theorem test_wellFormed_refuses_unsigned : (AsmLine.ldcoef { gValues with t1 := 65536 }).wellFormed = false ∧
    (AsmLine.ldcoef { gValues with p1 := -1 }).wellFormed = false := by decide

theorem test_wellFormed_refuses_signed : (AsmLine.ldcoef { gValues with t2 := 32768 }).wellFormed = false ∧
    (AsmLine.ldcoef { gValues with t3 := -32769 }).wellFormed = false ∧
    (AsmLine.ldcoef { gValues with p2 := 32768 }).wellFormed = false ∧
    (AsmLine.ldcoef { gValues with p3 := -32769 }).wellFormed = false ∧
    (AsmLine.ldcoef { gValues with p4 := 32768 }).wellFormed = false ∧
    (AsmLine.ldcoef { gValues with p5 := -32769 }).wellFormed = false ∧
    (AsmLine.ldcoef { gValues with p6 := 32768 }).wellFormed = false ∧
    (AsmLine.ldcoef { gValues with p7 := -32769 }).wellFormed = false ∧
    (AsmLine.ldcoef { gValues with p8 := 32768 }).wellFormed = false ∧
    (AsmLine.ldcoef { gValues with p9 := -32769 }).wellFormed = false := by decide

theorem test_wellFormed_refuses_raw : (AsmLine.cmptr 1048576).wellFormed = false ∧
    (AsmLine.cmppr (-1)).wellFormed = false ∧ (AsmLine.convr 1048576 0).wellFormed = false ∧
    (AsmLine.convr 0 (-1)).wellFormed = false := by decide

/-- R46, R52, R53: no byte, a reserved opcode, one byte short, one byte over. -/
theorem test_packet_wellFormed : Packet.wellFormed [] = false ∧ Packet.wellFormed [0x00] = false ∧
    Packet.wellFormed [0x06] = false ∧ Packet.wellFormed [0x02, 0x7E, 0xED] = false ∧
    Packet.wellFormed [0x05, 0x05] = false ∧ Packet.wellFormed [0x05] = true ∧
    Packet.wellFormed [0x04, 0, 0, 0, 0, 0, 0] = true := by decide

/-! ### Decode: bytes written out from R46, R47 and R58, vectors X-1 to X-6 -/

theorem test_decode_ldcal : decode [0x01, 0x70, 0x6B, 0x43, 0x67, 0x18, 0xFC, 0x7D, 0x8E, 0x43, 0xD6, 0xD0, 0x0B, 0x27,
    0x0B, 0x8C, 0x00, 0xF9, 0xFF, 0x8C, 0x3C, 0xF8, 0xC6, 0x70, 0x17] = .ok (.ldcal Reference.exampleBlock, []) := by
  rfl

theorem test_decode_cmpt : decode [0x02, 0x7E, 0xED, 0x00] = .ok (.cmpt ⟨0x7E, 0xED, 0x00⟩, []) := by rfl

theorem test_decode_cmpp : decode [0x03, 0x65, 0x5A, 0xC0] = .ok (.cmpp ⟨0x65, 0x5A, 0xC0⟩, []) := by rfl

/-- The pressure triple comes first. -/
theorem test_decode_conv : decode [0x04, 0x65, 0x5A, 0xC0, 0x7E, 0xED, 0x00] =
    .ok (.conv ⟨0x65, 0x5A, 0xC0⟩ ⟨0x7E, 0xED, 0x00⟩, []) := by rfl

theorem test_decode_rdlt : decode [0x05] = .ok (.rdlt, []) := by rfl

theorem test_decode_X1_X2_X3 : decode [0x00] = .error (.reserved 0x00) ∧ decode [0x06] = .error (.reserved 0x06) ∧
    decode [0xFF] = .error (.reserved 0xFF) := ⟨rfl, rfl, rfl⟩

theorem test_decode_X4 : decode [0x02, 0x7E, 0xED] = .error (.short 0x02 3) := by rfl

theorem test_decode_X5_X6 : decodeStream 2 [0x05, 0x05] = .ok [.rdlt, .rdlt] ∧
    decodeStream 5 [0x02, 0x7E, 0xED, 0x00, 0x05] = .ok [.cmpt ⟨0x7E, 0xED, 0x00⟩, .rdlt] := ⟨rfl, rfl⟩

/-- The rows as spec/opcode_table.json numbers their bits: byte 0 is bits 7..0. -/
theorem test_decodeTableWord : decodeTableWord 8 0x05 = some .rdlt ∧
    decodeTableWord 32 0x00ED7E02 = some (.cmpt ⟨0x7E, 0xED, 0x00⟩) ∧
    decodeTableWord 32 0xC05A6503 = some (.cmpp ⟨0x65, 0x5A, 0xC0⟩) ∧
    decodeTableWord 56 0x00ED7EC05A6504 = some (.conv ⟨0x65, 0x5A, 0xC0⟩ ⟨0x7E, 0xED, 0x00⟩) ∧
    decodeTableWord 8 0x02 = some (.cmpt ⟨0, 0, 0⟩) ∧ decodeTableWord 8 0x06 = none := by
  refine ⟨rfl, rfl, rfl, rfl, rfl, rfl⟩

theorem test_decodeTableWord_ldcal : decodeTableWord 8 0x01 = some (.ldcal (Vector.replicate 24 0)) ∧
    decodeTableWord 200 (0x1770C6F83C8CFFF9008C0B270BD0D6438E7DFC1867436B70 * 256 + 1) =
      some (.ldcal Reference.exampleBlock) := ⟨rfl, rfl⟩

/-- Each row's word is the first instruction after reset. -/
theorem test_step_runs_the_row_from_reset :
    step (State.reset.withFetchWord 8 0x05) = exec .rdlt State.reset ∧
    step (State.reset.withFetchWord 32 0x02) = exec (.cmpt ⟨0, 0, 0⟩) State.reset ∧
    step (State.reset.withFetchWord 8 0x03) = exec (.cmpp ⟨0, 0, 0⟩) State.reset ∧
    step (State.reset.withFetchWord 56 0x04) = exec (.conv ⟨0, 0, 0⟩ ⟨0, 0, 0⟩) State.reset ∧
    step (State.reset.withFetchWord 8 0x01) = exec (.ldcal (Vector.replicate 24 0)) State.reset :=
  ⟨rfl, rfl, rfl, rfl, rfl⟩

/-! ### The assembler: R56, R57, R58 -/

theorem test_assembleText_cmptr : assembleText "  CMPTR 519888  ; the example reading".toList =
    some [0x02, 0x7E, 0xED, 0x00] := by decide

theorem test_assembleText_conv : assembleText "CONV 0x65, 0x5A, 0xcf, 0x7E,0xED, 15".toList =
    some [0x04, 0x65, 0x5A, 0xCF, 0x7E, 0xED, 0x0F] := by decide

theorem test_assembleText_ldcoef :
    assembleText "LDCOEF 27504, 26435, -1000, 36477, -10685, 3024, 2855, 140, -7, 15500, -14600, 6000".toList =
      some (0x01 :: Reference.exampleBlock.toList) := by decide

theorem test_assembleText_errors : assembleText "CMPTR 1048576".toList = none ∧
    assembleText "CMPT 1, 2".toList = none ∧ assembleText "RDLT 0".toList = none ∧
    assembleText "CMPP 256, 0, 0".toList = none ∧ assembleText "LDCAX 0".toList = none ∧
    assembleText "; nothing here".toList = some [] := by decide

/-! ### The commands: 95_test_vectors.md sections 3 to 6 and 9 -/

/-- C-1, and program A step 3: the sentinel is left alone. -/
theorem test_ldcal_C1 : seen (.ldcal Reference.exampleBlock) { gState 7 0x954D [] with cal := Vector.replicate 12 0 } =
      some (7, -27315, [.done]) ∧ calDecode Reference.exampleBlock = Reference.exampleCal := by decide

/-- C-8: mixed extremes, each field with its own signedness. -/
theorem test_ldcal_C8 : calValues (calDecode #v[0xFF, 0xFF, 0x00, 0x80, 0xFF, 0x7F, 0x00, 0x00, 0xFF, 0xFF, 0x01, 0x00,
      0xFE, 0xFF, 0x00, 0x01, 0x00, 0xFF, 0xFF, 0x00, 0x01, 0xFF, 0x34, 0x12]) =
    ⟨65535, -32768, 32767, 0, -1, 1, -2, 256, -256, 255, -255, 4660⟩ := by decide

/-- G-T2: every right shift has a negative operand. -/
theorem test_cmpt_GT2 : seen (.cmpt ⟨0, 0, 0⟩) (gState 0 0x954D []) =
    some (-721301, -14088, [.temperature (BitVec.ofInt 32 (-721301)) (BitVec.ofInt 16 (-14088))]) := by decide

/-- T-C9: a product wraps. -/
theorem test_cmpt_TC9 : (compT 1048575 ⟨27504, 26435, 32767⟩).1.toInt = 901573 ∧
    (compT 1048575 ⟨27504, 26435, 32767⟩).2.toInt = 17609 := by decide

/-- G-P5, the high branch, from the command. -/
theorem test_cmpp_GP5 : seen (.cmpp (rawBytes 315698)) (gState 128422 2508 []) =
    some (128422, 2508, [.pressure 117873]) := by decide

/-- P-Z2: the guard fires although `dig_P1` is 1. -/
theorem test_cmpp_PZ2 : seen (.cmpp rawP0) (g1State 1 128422) = some (128422, 0, [.pressure 0]) := by decide

/-- Program B step 9: the stale `T_FINE` is not used. -/
theorem test_conv_B9 : seen (.conv rawP0 rawT0) (gState (BitVec.ofInt 32 (-64736)) (BitVec.ofInt 16 (-1264)) []) =
    some (128422, 2508, [.pressure 100656]) := by decide

/-- Program C step 2: the guard fires, the registers are written all the same. -/
theorem test_conv_C2 : seen (.conv rawP0 (rawBytes 600000)) (g1State 0 0) =
    some (256562, 5011, [.pressure 0]) := by decide

/-- Program A step 1. -/
theorem test_rdlt_A1 : ∃ s, exec .rdlt State.reset = .next s ∧ s.responses = [.lastTemp 0x954D] := ⟨_, rfl, rfl⟩

/-- Program A step 5. -/
theorem test_rdlt_A5 : seen .rdlt (gState 128422 2508 []) = some (128422, 2508, [.lastTemp 2508]) := by decide

/-- X-6, the first of its two steps: the surplus byte stays in the stream. -/
theorem test_step_X6 : (nextOf (step ((gState 0 0 []).issueBytes [0x02, 0x7E, 0xED, 0x00, 0x05]))).map
    (fun s => (s.tFine.toInt, s.input)) = some (128422, [.byte 0x05]) := by decide

/-- R146: a reset after the last byte of `CMPT` leaves no response and no new `T_FINE`. -/
theorem test_reset_abandons_cmpt : ∃ s,
    step { gState 5 0 [] with input := [.byte 0x02, .byte 0x7E, .byte 0xED, .byte 0x00, .resetInCommand] } = .next s ∧
      s.responses = [] ∧ s.lastT = 0x954D ∧ s.input = [] := ⟨_, rfl, rfl, rfl, rfl⟩

/-! ### Witnesses: values that meet the hypotheses of each obligation that has any -/

theorem witness_ResetEventGivesTheResetState :
    (gState 1 2 [.reset, .byte 5]).input = .reset :: [.byte 5] ∧
    (gState 1 2 [.resetInCommand]).input = .resetInCommand :: [] := ⟨rfl, rfl⟩

/-- Both clauses; in the first, the longest and the shortest partial packet and both events. -/
theorem witness_ResetAbandonsTheCommandInProgress :
    (formatOf 0x02 = some .r3 ∧ [0x7E, 0xED].length + 1 < Format.r3.bytes ∧
      (gState 1 2 [.byte 0x02, .byte 0x7E, .byte 0xED, .reset]).input =
        ([0x02, 0x7E, 0xED] : List Byte).map .byte ++ .reset :: []) ∧
    (formatOf 0x04 = some .d6 ∧ ([] : List Byte).length + 1 < Format.d6.bytes ∧
      (gState 1 2 [.byte 0x04, .resetInCommand]).input = ([0x04] : List Byte).map .byte ++ .resetInCommand :: []) ∧
    (gState 1 2 [.byte 0x05, .resetInCommand]).input = (encode .rdlt).map .byte ++ .resetInCommand :: [] :=
  ⟨⟨rfl, by decide, rfl⟩, ⟨rfl, by decide, rfl⟩, rfl⟩

/-- A reset, and an idle step in a state that holds the sentinel. -/
theorem witness_OnlyResetRestoresTheSentinel :
    (∃ s', step (gState 1 2 [.reset]) = .next s' ∧ s'.lastT.toInt = -27315) ∧
    (∃ s', step (gState 1 0x954D []) = .next s' ∧ s'.lastT.toInt = -27315) :=
  ⟨⟨_, rfl, by decide⟩, ⟨_, rfl, by decide⟩⟩

theorem witness_IdleStateIsUnchanged : State.reset.input = [] := rfl

theorem witness_StepRunsTheDecodedCommand :
    decode (leadingBytes (gState 1 2 [.byte 0x05, .byte 0x05, .reset]).input) = .ok (.rdlt, [0x05]) ∧
    (([0x05] : List Byte).map HostEvent.byte ++
      afterBytes (gState 1 2 [.byte 0x05, .byte 0x05, .reset]).input).head? ≠ some .resetInCommand :=
  ⟨rfl, by decide⟩

theorem witness_StepRunsTheIssuedPacket :
    (gState 1 2 [.byte 0x05, .reset]).input = (encode .rdlt).map .byte ++ [.reset] ∧
    ([.reset] : List HostEvent).head? ≠ some .resetInCommand := ⟨rfl, by decide⟩

/-- Opcodes 0, 6 and 0xFF on one side, 1 and 5 on the other. -/
theorem witness_ReservedOpcodesAreRefused :
    ((0x00 : Byte).toNat = 0 ∧ 6 ≤ (0x06 : Byte).toNat ∧ 6 ≤ (0xFF : Byte).toNat) ∧
    ((0x06 : Byte).toNat = 0 ∨ 6 ≤ (0x06 : Byte).toNat) ∧ (gState 1 2 [.byte 0x06]).input = .byte 0x06 :: [] ∧
    (1 ≤ (0x01 : Byte).toNat ∧ (0x05 : Byte).toNat ≤ 5) := by decide

/-- One byte missing, and all of the payload missing. -/
theorem witness_ShortPacketsAreRefused :
    (formatOf 0x02 = some .r3 ∧ ([0x7E, 0xED] : List Byte).length + 1 < Format.r3.bytes) ∧
    (formatOf 0x01 = some .c24 ∧ ([] : List Byte).length + 1 < Format.c24.bytes ∧
      (gState 1 2 [.byte 0x01]).input = ([0x01] : List Byte).map .byte) := by decide

theorem witness_EncodeOfDecodeIsTheBytes : decode [0x02, 0x7E, 0xED, 0x00, 0x05] = .ok (.cmpt rawT0, [0x05]) := rfl

/-- A packet of each opcode; and the exact length as well as a longer stream. -/
theorem witness_PacketLengthIsFixedByByteZero :
    decode (0x01 :: List.replicate 24 0) = .ok (.ldcal (Vector.replicate 24 0), []) ∧
    decode (0x02 :: [0, 0, 0]) = .ok (.cmpt ⟨0, 0, 0⟩, []) ∧
    decode (0x03 :: [0, 0, 0, 9]) = .ok (.cmpp ⟨0, 0, 0⟩, [9]) ∧
    decode (0x04 :: [0, 0, 0, 0, 0, 0]) = .ok (.conv ⟨0, 0, 0⟩ ⟨0, 0, 0⟩, []) ∧
    decode (0x05 :: []) = .ok (.rdlt, []) ∧
    (formatOf 0x05 = some .n ∧ Format.n.bytes ≤ ([] : List Byte).length + 1) ∧
    (formatOf 0x03 = some .r3 ∧ Format.r3.bytes ≤ ([0, 0, 0, 9] : List Byte).length + 1) :=
  ⟨rfl, rfl, rfl, rfl, rfl, by decide, by decide⟩

/-- Both ends of each range, and the values next to them outside. -/
theorem witness_PseudoInstructionsAssembleInRange :
    (⟨0, -32768, 32767, 65535, -32768, 32767, 0, 0, 0, 0, 0, 0⟩ : CalValues).inRange = true ∧
    ({ gValues with p1 := 65536 } : CalValues).inRange = false ∧
    ((0 : Int) ≤ 0 ∧ (0 : Int) ≤ 1048575) ∧ ((0 : Int) ≤ 1048575 ∧ (1048575 : Int) ≤ 1048575) ∧
    (-1 : Int) < 0 ∧ (1048575 : Int) < 1048576 := by decide

theorem witness_ByteLinesAssembleInOrder : ([] : List Int).length ≠ 24 ∧ (List.replicate 25 (0 : Int)).length ≠ 24 ∧
    ((256 : Int) ∈ [0, 256] ∧ (255 : Int) < 256) ∧ ((-1 : Int) ∈ [-1] ∧ (-1 : Int) < 0) ∧
    ((256 : Int) ∈ [256, 0, 0] ∧ (-1 : Int) ∈ [0, 0, -1]) ∧
    ((256 : Int) ∈ [0, 0, 0, 0, 0, 256] ∧ (-1 : Int) ∈ [-1, 0, 0, 0, 0, 0]) := by decide

/-- A-2 and A-9. -/
theorem witness_PaddingBitsAreIgnored : (0xC0 : Byte).toNat / 16 = (0xCF : Byte).toNat / 16 := by decide

theorem witness_CalibrationBlockRoundTrips : gValues.inRange = true ∧
    (⟨65535, 32767, -32768, 0, 0, 0, 0, 0, 0, 0, -32768, 32767⟩ : CalValues).inRange = true := by decide

/-- The largest and the smallest exact result of each operation. -/
theorem witness_SignedOperationsWrapModulo :
    Fits32 ((2147483646 : S32).toInt + (1 : S32).toInt) ∧ Fits32 ((0x80000001 : S32).toInt - (1 : S32).toInt) ∧
    Fits32 ((65536 : S32).toInt * (-32768 : S32).toInt) ∧ Fits32 ((46340 : S32).toInt * (46340 : S32).toInt) := by
  decide

/-- The smallest and the largest amount; a negative value that the shift does not divide. -/
theorem witness_RightShiftOfSignedIsFloor : (0 < 1 ∧ 31 < 32) ∧
    ((-2 : S32).toInt < 0 ∧ ¬ (2 ^ 11 : Int) ∣ (-2 : S32).toInt) ∧
    ((-1 : S32).toInt < 0 ∧ ¬ (2 ^ 31 : Int) ∣ (-1 : S32).toInt) := by decide

theorem witness_LeftShiftDropsTopBits : 0 < 32 ∧ 31 < 32 := by decide

theorem witness_UnsignedOperationsAndDivide : 31 < 32 ∧ (1 : U32) ≠ 0 ∧ (0xFFFFFFFF : U32) ≠ 0 := by decide

theorem witness_LowWordIgnoresSignedness : Fits32 ((-65536 : S32).toInt * (32768 : S32).toInt) := by decide

theorem witness_StepsThatCannotWrap : (0 : U32).toNat < 2147483648 ∧ (0x7FFFFFFF : U32).toNat < 2147483648 := by decide

/-- The ends of the three ranges. -/
theorem witness_ExampleCoefficientsDoNotWrap :
    (-242720 ≤ (-242720 : S32).toInt ∧ (-242720 : S32).toInt ≤ 498727) ∧
    (-242720 ≤ (498727 : S32).toInt ∧ (498727 : S32).toInt ≤ 498727) ∧
    (-242721 : S32).toInt = -242721 ∧ (498728 : S32).toInt = 498728 ∧ (300000 : U32).toNat ≤ 300000 := by decide

theorem witness_TemperatureRoundsHalfUp : TFineInRange (-1179648) ∧ TFineInRange 1179646 := by decide

/-- The sentinel and both ends of the range. -/
theorem witness_LastTStaysInItsSet : State.reset.lastT.toInt = -27315 ∧ TempInRange (-23040) ∧ TempInRange 23040 ∧
    (∃ s', step (gState 0 (-23040) [.byte 0x05]) = .next s') ∧ (∃ s', step (gState 0 23040 []) = .next s') := by
  refine ⟨by decide, by decide, by decide, ⟨_, rfl⟩, ⟨_, rfl⟩⟩

/-- Both halves of the invariant. -/
theorem witness_StepKeepsRegistersInv :
    (RegistersInv State.reset ∧ ∃ s', step State.reset = .next s') ∧
    (RegistersInv (gState 128422 2508 [.byte 0x05]) ∧ ∃ s', step (gState 128422 2508 [.byte 0x05]) = .next s') :=
  ⟨⟨.inl ⟨rfl, rfl⟩, _, rfl⟩, ⟨.inr (by decide), _, rfl⟩⟩

/-- A reset state that is not `State.reset`: what the third reset left, a packet issued. -/
theorem witness_RegistersInvHoldsAtReset : FreshReset
    ⟨Config.calReset 3, Config.tFineReset 3, Config.lastTReset, [.byte 0x05], [.done], 3⟩ := ⟨rfl, rfl, rfl⟩

def runCommands : List Instr := [.ldcal (calEncode gValues), .cmpt rawT0, .rdlt]

/-- A run from reset, of a well-formed stream, that meets `CalLoaded` for the set G and `TFineFresh` for 519888. -/
theorem run_exists : FreshReset (State.reset.issue runCommands) ∧
    WellFormedStream runCommands (State.reset.issue runCommands) ∧
    CalLoaded gValues runCommands ∧ TFineFresh 519888 runCommands ∧
    ∃ s, Run (State.reset.issue runCommands) runCommands s ∧ s.cal = Reference.exampleCal ∧ s.tFine = 128422 := by
  have hc : CalLoaded gValues runCommands := ⟨[], [.cmpt rawT0, .rdlt], rfl, by simp [NotLoad]⟩
  have ht : TFineFresh 519888 runCommands :=
    ⟨[.ldcal (calEncode gValues)], .cmpt rawT0, [.rdlt], rfl, by decide, by simp [NotLoad, temperatureOf]⟩
  have hr : ∃ s, Run (State.reset.issue runCommands) runCommands s :=
    ⟨_, .command .rdlt [] (.command (.cmpt rawT0) _ (.command (.ldcal (calEncode gValues)) _ .start rfl rfl) rfl rfl)
      rfl rfl⟩
  obtain ⟨s, hr⟩ := hr
  have h1 : s.cal = Reference.exampleCal := (hr.cal_of_calLoaded hc).trans (by decide)
  have h2 := hr.registers_of_tFineFresh ht
  rw [h1] at h2
  exact ⟨⟨rfl, rfl, rfl⟩, rfl, hc, ht, s, hr, h1, (Prod.mk.inj h2).1.trans (by decide)⟩

theorem noWrapT_example : NoWrapT 519888 (tempCoef Reference.exampleCal) ∧
    NoWrapT 1048575 (tempCoef Reference.exampleCal) := by unfold NoWrapT; decide

theorem witness_TemperatureWithoutWrapIsExact : NoWrapT 519888 (tempCoef Reference.exampleCal) ∧
    ∃ s0 s is, Run s0 is s ∧ CalLoaded gValues is ∧ TFineFresh 519888 is ∧ gValues.inRange = true ∧
      NoWrapT 519888 (tempCoef s.cal) := by
  obtain ⟨-, -, hc, ht, s, hr, h1, -⟩ := run_exists
  exact ⟨noWrapT_example.1, _, s, _, hr, hc, ht, by decide, h1 ▸ noWrapT_example.1⟩

/-- P-Z1, P-Z2; and a state for the second clause. -/
theorem witness_ZeroDivisorGivesZero :
    Reference.listingDivisor 128422 { pressCoef Reference.exampleCal with p1 := 0 } = 0 ∧
    Reference.listingDivisor 128422 { pressCoef Reference.exampleCal with p1 := 1 } = 0 ∧
    (g1State 0 128422).cal[3] = 0 := by decide

/-- The two bounds of the clauses on `dig_P1`. -/
theorem witness_GuardFiresExactlyWhen : (2 ≤ (Reference.exampleCal.set 3 2)[3].toNat) ∧
    (2 ≤ (Reference.exampleCal.set 3 52430)[3].toNat ∧ (Reference.exampleCal.set 3 52430)[3].toNat ≤ 52430) := by decide

theorem witness_PressureStepRanges : TFineInRange (-1179648) ∧ TFineInRange 1179646 := by decide

/-- Both branches at their boundary, the divisor 1 and another. -/
theorem witness_TwoBranchScaling : (0x7FFFFFFF : U32).toNat < 2147483648 ∧ 2147483648 ≤ (0x80000000 : U32).toNat ∧
    (1 : U32) ≠ 0 ∧ (1 : U32).toNat = 1 ∧ (36471 : U32) ≠ 0 ∧ (36471 : U32).toNat ≠ 1 := by decide

/-- P-Z4. -/
theorem witness_NegativeDivisorGivesSmallQuotient :
    (pressVar1c (pressVar1a 0) (pressCoef (Reference.exampleCal.set 3 65535))).toInt < 0 ∧
    pressVar1c (pressVar1a 0) (pressCoef (Reference.exampleCal.set 3 65535)) ≠ 0 ∧
    (0x7FFFFFFF : U32).toNat < 2147483648 ∧ 2147483648 ≤ (0x80000000 : U32).toNat := by decide

theorem witness_PressureDependsOnTFineThroughVar1a : pressVar1a 128422 = pressVar1a 128423 := by decide

/-- G-P1. -/
theorem noWrapP_example : NoWrapP 415148 128422 (pressCoef Reference.exampleCal) := by
  refine ⟨by unfold NoWrapDivisor; decide, fun h => ?_⟩
  have hd : asU32 (pressVar1c (pressVar1a 128422) (pressCoef Reference.exampleCal)) = 36471 := by decide
  have hq : ∀ (d : U32) (h : d ≠ 0), d = 36471 →
      pressP1 (pressP0 415148 (pressVar2c (pressVar1a 128422) (pressCoef Reference.exampleCal))) d h = 100721 := by
    rintro d h rfl
    decide +revert
  exact Eq.mpr (congrArg (NoWrapCorr · (pressCoef Reference.exampleCal)) (hq _ h hd)) (by unfold NoWrapCorr; decide)

theorem witness_PressureWithoutWrapIsExact : NoWrapP 415148 128422 (pressCoef Reference.exampleCal) ∧
    ∃ s0 s is, Run s0 is s ∧ CalLoaded gValues is ∧ TFineFresh 519888 is ∧ gValues.inRange = true ∧
      NoWrapT 519888 (tempCoef s.cal) ∧ NoWrapP (rawAssemble rawP0) s.tFine (pressCoef s.cal) := by
  obtain ⟨-, -, hc, ht, s, hr, h1, h2⟩ := run_exists
  refine ⟨noWrapP_example, _, s, _, hr, hc, ht, by decide, h1 ▸ noWrapT_example.1, ?_⟩
  rw [h1, h2, show rawAssemble rawP0 = 415148 from by decide]
  exact noWrapP_example

theorem witness_ConvIsCmptThenCmpp : ([] : List HostEvent).head? ≠ some .resetInCommand ∧
    ([.byte 0x05] : List HostEvent).head? ≠ some .resetInCommand := by decide

theorem witness_RdltReadsLastTAndWritesNothing : RegistersInv State.reset ∧ RegistersInv (gState 128422 2508 []) :=
  ⟨.inl ⟨rfl, rfl⟩, .inr (by decide)⟩

/-- P-Z5; the first clause is met by the state the second one names. -/
theorem witness_ZeroPressureStillWritesTemperature : (g1State 0 0).cal[3] = 0 ∧
    ∃ s', exec (.conv rawP0 (rawBytes 600000)) (g1State 0 0) = .next s' ∧
      s'.responses = (g1State 0 0).responses ++ [.pressure 0] := by
  have h := test_conv_C2
  rw [seen, exec_conv] at h
  exact ⟨by decide, _, exec_conv _ _ _, (Prod.mk.inj (Prod.mk.inj (Option.some.inj h)).2).2⟩

/-- A command that writes the latches, one that writes the registers, and one that writes neither. -/
theorem witness_OnlyTheNamedCommandsWrite :
    (∃ s', exec (.cmpt rawT0) (gState 1 2 []) = .next s') ∧ (∀ b, Instr.cmpt rawT0 ≠ .ldcal b) ∧
    (∃ s', exec (.ldcal Reference.exampleBlock) (gState 1 2 []) = .next s') ∧
    (∀ t, Instr.ldcal Reference.exampleBlock ≠ .cmpt t) ∧ (∀ p t, Instr.ldcal Reference.exampleBlock ≠ .conv p t) ∧
    (∃ s', exec .rdlt (gState 1 2 []) = .next s') :=
  ⟨⟨_, rfl⟩, nofun, ⟨_, rfl⟩, nofun, nofun, ⟨_, rfl⟩⟩

theorem witness_RepeatingACommandChangesNothing : Instr.cmpp rawP0 = .cmpp rawP0 ∧ Instr.rdlt = .rdlt := ⟨rfl, rfl⟩

/-- For each clause two states that differ in everything it does not name. -/
theorem witness_CommandsReadOnlyWhatTheyName :
    ((gState 1 2 []).cal[0] = (g1State 9 3).cal[0] ∧ (gState 1 2 []).cal[1] = (g1State 9 3).cal[1] ∧
      (gState 1 2 []).cal[2] = (g1State 9 3).cal[2] ∧ (gState 1 2 []).cal ≠ (g1State 9 3).cal) ∧
    (∀ k : Fin 12, 3 ≤ k.val → (gState 1 2 []).cal[k] = ({ gState 1 7 [] with cal := Reference.exampleCal.set 0 0 } :
      State).cal[k]) ∧
    (gState 1 2 []).cal = (gState 3 4 []).cal ∧ (gState 1 0 []).lastT = (g1State 9 3).lastT := by decide

theorem witness_CommandsRunInIssueOrder : State.reset.input = [] := rfl

end Sys2Proof.Tests
end

section
/-!
PROOF. The typed reads of the calibration latches (10_state.md R17): what each read is as an integer, and the range of a
16-bit latch in either reading.
-/

namespace Sys2Proof.Machine

/-! ### The integer value of each typed read -/

@[simp] theorem tempCoef_t1_toInt (cal : CalPatterns) :
    (tempCoef cal).t1.toInt = cal[0].toNat := zext16_toInt _
@[simp] theorem tempCoef_t2_toInt (cal : CalPatterns) :
    (tempCoef cal).t2.toInt = cal[1].toInt := sext16_toInt _
@[simp] theorem tempCoef_t3_toInt (cal : CalPatterns) :
    (tempCoef cal).t3.toInt = cal[2].toInt := sext16_toInt _
@[simp] theorem pressCoef_p1_toInt (cal : CalPatterns) :
    (pressCoef cal).p1.toInt = cal[3].toNat := zext16_toInt _
@[simp] theorem pressCoef_p2_toInt (cal : CalPatterns) :
    (pressCoef cal).p2.toInt = cal[4].toInt := sext16_toInt _
@[simp] theorem pressCoef_p3_toInt (cal : CalPatterns) :
    (pressCoef cal).p3.toInt = cal[5].toInt := sext16_toInt _
@[simp] theorem pressCoef_p4_toInt (cal : CalPatterns) :
    (pressCoef cal).p4.toInt = cal[6].toInt := sext16_toInt _
@[simp] theorem pressCoef_p5_toInt (cal : CalPatterns) :
    (pressCoef cal).p5.toInt = cal[7].toInt := sext16_toInt _
@[simp] theorem pressCoef_p6_toInt (cal : CalPatterns) :
    (pressCoef cal).p6.toInt = cal[8].toInt := sext16_toInt _
@[simp] theorem pressCoef_p7_toInt (cal : CalPatterns) :
    (pressCoef cal).p7.toInt = cal[9].toInt := sext16_toInt _
@[simp] theorem pressCoef_p8_toInt (cal : CalPatterns) :
    (pressCoef cal).p8.toInt = cal[10].toInt := sext16_toInt _
@[simp] theorem pressCoef_p9_toInt (cal : CalPatterns) :
    (pressCoef cal).p9.toInt = cal[11].toInt := sext16_toInt _

/-! ### The range of a latch -/

theorem latch_toNat_le (v : U16) : v.toNat ≤ 65535 := Nat.le_of_lt_succ v.isLt

theorem latch_toInt_mem (v : S16) : -32768 ≤ v.toInt ∧ v.toInt ≤ 32767 :=
  ⟨v.le_toInt, Int.le_of_lt_add_one v.toInt_lt⟩

/-- Settles O22: a 16-bit value of either reading fits in 32 bits, so widening it changes no value. -/
theorem typedReadsWidenByValue : Obligations.TypedReadsWidenByValue := by
  intro cal
  have ranges (k : Fin 12) : cal[k].toNat ≤ 65535 ∧ -32768 ≤ cal[k].toInt ∧ cal[k].toInt ≤ 32767 :=
    ⟨latch_toNat_le _, latch_toInt_mem _⟩
  exact ⟨tempCoef_t1_toInt cal, tempCoef_t2_toInt cal, tempCoef_t3_toInt cal, pressCoef_p1_toInt cal,
    pressCoef_p2_toInt cal, pressCoef_p3_toInt cal, pressCoef_p4_toInt cal, pressCoef_p5_toInt cal,
    pressCoef_p6_toInt cal, pressCoef_p7_toInt cal, pressCoef_p8_toInt cal, pressCoef_p9_toInt cal, ranges⟩

end Sys2Proof.Machine
end

section
/-!
PROOF. The stream of commands (20_memory.md R40, 30_encoding.md R45): the decoder gives back the command at the front of a
stream, the step runs it, and so the packets of a list of commands run in the order they were issued.
-/

namespace Sys2Proof.Machine

/-! ### The decoder on an encoded packet -/

@[simp] theorem takeTriple_toBytes_append (t : RawTriple) (rest : List Byte) :
    takeTriple (t.toBytes ++ rest) = some (t, rest) := rfl

@[simp] theorem takeBlock_toList_append (b : CalBlock) (rest : List Byte) :
    takeBlock (b.toList ++ rest) = some (b, rest) := by
  simp [takeBlock, Vector.toList]

theorem decode_encode_append (i : Instr) (rest : List Byte) : decode (encode i ++ rest) = .ok (i, rest) := by
  cases i with
  | ldcal b => simp [encode, decode, formatOf, takePayload]
  | cmpt t => rfl
  | cmpp p => rfl
  | conv p t => rfl
  | rdlt => rfl

/-! ### The step on an encoded packet -/

/-- Bytes that decode are fetched as their command, whatever the host does after the packet. -/
theorem fetch_of_decode {es : List HostEvent} {i : Instr} {rest : List Byte}
    (h : decode (leadingBytes es) = .ok (i, rest)) :
    fetch es = fetchCommand i (rest.map .byte ++ afterBytes es) := by
  cases es with
  | nil => cases h
  | cons e es =>
    cases e with
    | byte b => simp only [leadingBytes_byte] at h; simp only [fetch, h, afterBytes_byte]
    | reset => cases h
    | resetInCommand => cases h

theorem fetch_encode_append (i : Instr) (es : List HostEvent) :
    fetch ((encode i).map .byte ++ es) = fetchCommand i es := by
  have h : decode (leadingBytes ((encode i).map .byte ++ es)) = .ok (i, leadingBytes es) := by
    rw [leadingBytes_map_append, decode_encode_append]
  rw [fetch_of_decode h, afterBytes_map_append, leadingBytes_append_afterBytes]

theorem fetchCommand_of_head_ne (i : Instr) {es : List HostEvent} (h : es.head? ≠ some .resetInCommand) :
    fetchCommand i es = .command i es := by
  unfold fetchCommand
  split
  · exact absurd rfl h
  · rfl

theorem head?_map_byte_ne_resetInCommand (bs : List Byte) :
    (bs.map HostEvent.byte).head? ≠ some .resetInCommand := by
  cases bs <;> nofun

theorem step_encode_append {s : State} {i : Instr} {es : List HostEvent}
    (hs : s.input = (encode i).map .byte ++ es) (hes : es.head? ≠ some .resetInCommand) :
    step s = exec i (s.withInput es) := by
  simp only [step, hs, fetch_encode_append, fetchCommand_of_head_ne i hes]

/-! ### Commands one after the other -/

/-- No command faults or is refused, and each gives one response (R54, R130). -/
theorem exec_responds (i : Instr) (s : State) :
    ∃ s' r, exec i s = .next s' ∧ s'.responses = s.responses ++ [r] := by
  cases i <;> exact ⟨_, _, rfl, rfl⟩

theorem runAll_cons_of_exec {i : Instr} {s s' : State} (h : exec i s = .next s') (is : List Instr) :
    runAll (i :: is) s = runAll is s' := by
  simp only [runAll, h]

theorem core_run_succ_of_step {s s' : State} (h : step s = .next s') (k : Nat) :
    Host.Core.run Sys2Proof.core (k + 1) s = Host.Core.run Sys2Proof.core k s' := by
  have hstep : Sys2Proof.core.step s = .next s' := h
  simp only [Host.Core.run, hstep]

/-- The commands of a list all run, leave the stream alone, and give one response each. -/
theorem runAll_next (is : List Instr) (s : State) :
    ∃ s', runAll is s = .next s' ∧ s'.input = s.input ∧ s'.responses.length = s.responses.length + is.length := by
  induction is generalizing s with
  | nil => exact ⟨s, rfl, rfl, rfl⟩
  | cons i is ih =>
    obtain ⟨s₁, r, hexec, hresp⟩ := exec_responds i s
    obtain ⟨s', hrun, hin, hlen⟩ := ih s₁
    refine ⟨s', (runAll_cons_of_exec hexec is).trans hrun, hin.trans (exec_input i s s₁ hexec), ?_⟩
    simp only [hlen, hresp, List.length_append, List.length_cons, List.length_nil]
    omega

/-- The simulation: a machine whose stream is the packets of `is` does `is` on its registers. The step takes the first
packet, and the command on the remaining stream is the command on the empty one (`exec_withInput`). -/
theorem core_run_packets (is : List Instr) {s : State} (hs : s.input = []) :
    Host.Core.run Sys2Proof.core is.length (s.withInput ((is.flatMap encode).map .byte)) = runAll is s := by
  induction is generalizing s with
  | nil => cases s; cases hs; rfl
  | cons i is ih =>
    obtain ⟨s₁, _, hexec, -⟩ := exec_responds i s
    have hstep : step (s.withInput (((i :: is).flatMap encode).map .byte)) =
        .next (s₁.withInput ((is.flatMap encode).map .byte)) := by
      rw [step_encode_append (i := i) (es := (is.flatMap encode).map .byte)
        (by simp [List.flatMap_cons]) (head?_map_byte_ne_resetInCommand _)]
      exact exec_withInput i s s₁ _ hexec
    rw [List.length_cons, core_run_succ_of_step hstep, runAll_cons_of_exec hexec]
    exact ih ((exec_input i s s₁ hexec).trans hs)

theorem issue_eq_withInput {s : State} (hs : s.input = []) (is : List Instr) :
    s.issue is = s.withInput ((is.flatMap encode).map .byte) := by
  simp only [State.issue, State.issueBytes, State.withInput, hs, List.nil_append]

/-- Settles O60: issuing to an idle machine puts exactly the packets in its stream, and by induction over the commands
each step runs the next one. -/
theorem commandsRunInIssueOrder : Obligations.CommandsRunInIssueOrder := by
  intro is s hs
  obtain ⟨s', hrun, hin, hlen⟩ := runAll_next is s
  refine ⟨?_, s', hrun, hin.trans hs, hlen⟩
  rw [issue_eq_withInput hs]
  exact core_run_packets is hs

end Sys2Proof.Machine
end

section
/-!
PROOF. Operand assembly: the raw value of a triple, its padding bits (30_encoding.md R48, R49) and the triple of a raw
value (R51); the pattern of a coefficient and its two bytes (41_calibration.md R83, R85); and the assembler's
pseudo-instructions (R57).
-/

namespace Sys2Proof.Machine

/-! ### The raw value of a triple -/

theorem rawAssemble_toNat (t : RawTriple) :
    (rawAssemble t).toNat = t.msb.toNat * 4096 + t.lsb.toNat * 16 + t.xlsb.toNat / 16 := by
  have := t.msb.isLt
  have := t.lsb.isLt
  have := t.xlsb.isLt
  rw [rawAssemble, BitVec.toNat_ofNat, Nat.mod_eq_of_lt (by omega)]

theorem threeBytes_toNat (a b c : Byte) :
    (a ++ b ++ c).toNat = a.toNat * 65536 + b.toNat * 256 + c.toNat := by
  have := b.isLt
  have := c.isLt
  rw [BitVec.toNat_append, BitVec.toNat_append, ← Nat.shiftLeft_add_eq_or_of_lt (by omega),
    ← Nat.shiftLeft_add_eq_or_of_lt (by omega), Nat.shiftLeft_eq, Nat.shiftLeft_eq]
  omega

/-- The sum of R48 and its bit range 23 to 4 are one value. -/
theorem rawAssemble_eq_extractLsb' (t : RawTriple) :
    rawAssemble t = (t.msb ++ t.lsb ++ t.xlsb).extractLsb' 4 20 := by
  have := t.msb.isLt
  have := t.lsb.isLt
  have := t.xlsb.isLt
  apply BitVec.eq_of_toNat_eq
  rw [rawAssemble_toNat, BitVec.extractLsb'_toNat, threeBytes_toNat, Nat.shiftRight_eq_div_pow]
  omega

/-- Settles O17: both forms of R48 are one value, and 20 bits enter the 32-bit arithmetic by value. -/
theorem rawAssembleIsTheTopTwentyBits : Obligations.RawAssembleIsTheTopTwentyBits :=
  ⟨fun t => ⟨rawAssemble_eq_extractLsb' t, rawAssemble_toNat t, zext20_toInt _⟩, by decide⟩

/-! ### The padding bits -/

theorem rawAssemble_congr_xlsb (a b : Byte) {c c' : Byte} (h : c.toNat / 16 = c'.toNat / 16) :
    rawAssemble ⟨a, b, c⟩ = rawAssemble ⟨a, b, c'⟩ := by
  simp only [rawAssemble, h]

/-- Settles O18: each command reads its triples through `rawAssemble` only. -/
theorem paddingBitsAreIgnored : Obligations.PaddingBitsAreIgnored := by
  refine ⟨fun a b c c' h => ?_, by decide, by decide⟩
  have hraw := rawAssemble_congr_xlsb a b h
  refine ⟨hraw, fun s => ⟨?_, ?_, fun t => ⟨?_, ?_⟩⟩⟩
  · rw [exec_cmpt, exec_cmpt, hraw]
  · rw [exec_cmpp, exec_cmpp, hraw]
  · rw [exec_conv, exec_conv, hraw]
  · rw [exec_conv, exec_conv, hraw]

/-! ### The triple of a raw value -/

theorem rawBytes_msb_toNat (r : U20) : (rawBytes r).msb.toNat = r.toNat / 4096 := by
  have := r.isLt
  rw [rawBytes, BitVec.extractLsb'_toNat, Nat.shiftRight_eq_div_pow]
  omega

theorem rawBytes_lsb_toNat (r : U20) : (rawBytes r).lsb.toNat = r.toNat / 16 % 256 := by
  rw [rawBytes, BitVec.extractLsb'_toNat, Nat.shiftRight_eq_div_pow]

theorem rawBytes_xlsb_toNat (r : U20) : (rawBytes r).xlsb.toNat = r.toNat % 16 * 16 := by
  rw [rawBytes, BitVec.toNat_append, ← Nat.shiftLeft_add_eq_or_of_lt (by decide), BitVec.extractLsb'_toNat,
    Nat.shiftLeft_eq]
  simp

theorem rawAssemble_rawBytes (r : U20) : rawAssemble (rawBytes r) = r := by
  apply BitVec.eq_of_toNat_eq
  rw [rawAssemble_toNat, rawBytes_msb_toNat, rawBytes_lsb_toNat, rawBytes_xlsb_toNat]
  omega

/-! ### The pattern of a coefficient and its two bytes -/

theorem littleEndian_extractLsb' (w : U16) : littleEndian (w.extractLsb' 0 8) (w.extractLsb' 8 8) = w :=
  BitVec.extractLsb'_append_extractLsb'_eq_extractLsb' (by decide) |>.trans (by simp)

theorem calDecode_calEncode (v : CalValues) : calDecode (calEncode v) = calPatterns v := by
  ext k hk
  have hodd : (2 * k + 1) % 2 = 1 ∧ (2 * k + 1) / 2 = k := by omega
  simp [calDecode, calEncode, hodd, littleEndian_extractLsb']

/-! ### The ranges of the operands -/

theorem inU16_iff (z : Int) : inU16 z = true ↔ 0 ≤ z ∧ z ≤ 65535 := by simp [inU16]

theorem inS16_iff (z : Int) : inS16 z = true ↔ -32768 ≤ z ∧ z ≤ 32767 := by simp [inS16]

theorem inU20_iff (r : Int) : inU20 r = true ↔ 0 ≤ r ∧ r ≤ 1048575 := by simp [inU20]

theorem ofInt_toNat_of_inU16 {z : Int} (h : inU16 z = true) : ((BitVec.ofInt 16 z).toNat : Int) = z := by
  rw [inU16_iff] at h
  rw [BitVec.toNat_ofInt]
  omega

theorem ofInt_toInt_of_inS16 {z : Int} (h : inS16 z = true) : (BitVec.ofInt 16 z).toInt = z := by
  rw [inS16_iff] at h
  exact BitVec.toInt_ofInt_eq_self (by decide) (by omega) (by omega)

/-- The typed reads give back the twelve values: no pattern of an operand in its range is a wrapped one. -/
theorem calValues_calPatterns {v : CalValues} (h : v.inRange = true) : calValues (calPatterns v) = v := by
  simp only [CalValues.inRange, Bool.and_eq_true, and_assoc] at h
  simp [calValues, calPatterns, h, ofInt_toNat_of_inU16, ofInt_toInt_of_inS16, -BitVec.toNat_ofInt,
    -BitVec.toInt_ofInt]

theorem rawAssemble_asmRaw_toNat {r : Int} (h : inU20 r = true) : ((rawAssemble (asmRaw r)).toNat : Int) = r := by
  rw [inU20_iff] at h
  rw [asmRaw, rawAssemble_rawBytes, BitVec.toNat_ofInt]
  omega

theorem asmRaw_padding (r : Int) : (asmRaw r).xlsb.toNat % 16 = 0 := by
  rw [asmRaw, rawBytes_xlsb_toNat]
  omega

/-! ### The assembler -/

theorem assemble_of_wellFormed {l : AsmLine} (h : l.wellFormed = true) : assemble l = assembleInRange l :=
  if_pos h

theorem assemble_of_not_wellFormed {l : AsmLine} (h : l.wellFormed = false) : assemble l = none := by
  simp [assemble, h]

/-- Settles O15: a line in range expands as R57 says, and its operands read back as the values written; a line out of
range is not well formed. -/
theorem pseudoInstructionsAssembleInRange : Obligations.PseudoInstructionsAssembleInRange := by
  refine ⟨fun v hv => ⟨?_, ?_⟩, fun v hv => ?_, fun r h0 h1 => ?_, fun rp rt hp0 hp1 ht0 ht1 => ?_, fun r x hr => ?_⟩
  · exact assemble_of_wellFormed (l := .ldcoef v) hv
  · rw [calDecode_calEncode, calValues_calPatterns hv]
  · exact assemble_of_not_wellFormed (l := .ldcoef v) hv
  · have hr : inU20 r = true := (inU20_iff r).2 ⟨h0, h1⟩
    exact ⟨asmRaw r, assemble_of_wellFormed (l := .cmptr r) hr, assemble_of_wellFormed (l := .cmppr r) hr,
      rawAssemble_asmRaw_toNat hr, asmRaw_padding r⟩
  · have hp : inU20 rp = true := (inU20_iff rp).2 ⟨hp0, hp1⟩
    have ht : inU20 rt = true := (inU20_iff rt).2 ⟨ht0, ht1⟩
    exact ⟨asmRaw rp, asmRaw rt, assemble_of_wellFormed (l := .convr rp rt) (by simp [AsmLine.wellFormed, hp, ht]),
      rawAssemble_asmRaw_toNat hp, rawAssemble_asmRaw_toNat ht, asmRaw_padding rp, asmRaw_padding rt⟩
  · have hr : inU20 r = false := by
      rw [Bool.eq_false_iff, Ne, inU20_iff]
      omega
    exact ⟨assemble_of_not_wellFormed (l := .cmptr r) hr, assemble_of_not_wellFormed (l := .cmppr r) hr,
      assemble_of_not_wellFormed (by simp [AsmLine.wellFormed, hr]),
      assemble_of_not_wellFormed (by simp [AsmLine.wellFormed, hr])⟩

end Sys2Proof.Machine
end

section
/-!
PROOF. The arithmetic primitives (40_arith.md R65 to R71): what a wrapped result keeps of the exact one, and what the
shifts do to the value and to the bits.
-/

namespace Sys2Proof.Machine

/-! ### Narrowing -/

/-- R8: `wrap32` changes a value by a multiple of 2^32 only. -/
theorem wrap32_toInt_sub_emod (z : Int) : ((wrap32 z).toInt - z) % 4294967296 = 0 := by
  rw [← Int.emod_eq_emod_iff_emod_sub_eq_zero, wrap32, BitVec.toInt_ofInt]
  exact Int.bmod_emod

theorem mod32_toNat (z : Int) : ((mod32 z).toNat : Int) = z % 4294967296 := by
  rw [mod32, BitVec.toNat_ofInt]
  omega

/-! ### The right shifts -/

/-- Shifting by n leaves 32 - n bits, of which one is the sign. -/
theorem asr32_toInt_mem (a : S32) {n : Nat} (hn : n < 32) :
    -(2 ^ (31 - n)) ≤ (asr32 a n).toInt ∧ (asr32 a n).toInt ≤ 2 ^ (31 - n) - 1 := by
  have hpow : (2 : Int) ^ (31 - n) * 2 ^ n = 2147483648 := by
    rw [← pow_add, Nat.sub_add_cancel (by omega)]
    rfl
  obtain ⟨hlo, hhi⟩ := toInt_fits a
  rw [asr32_toInt]
  constructor
  · rw [Int.le_ediv_iff_mul_le (by positivity), neg_mul, hpow]
    exact hlo
  · refine Int.le_sub_one_of_lt (Int.ediv_lt_of_lt_mul (by positivity) ?_)
    omega

theorem asr32_getLsbD (a : S32) (n : Nat) {i : Nat} (hi : i < 32) :
    (asr32 a n).getLsbD i = if i + n < 32 then a.getLsbD (i + n) else a.getLsbD 31 := by
  rw [asr32_eq_sshiftRight, BitVec.getLsbD_sshiftRight, Nat.add_comm n, BitVec.msb_eq_getLsbD_last]
  simp [Nat.not_le.mpr hi]

/-- R66, "rounds toward minus infinity, not toward zero": the truncating quotient of a negative inexact
one is greater by 1. -/
theorem asr32_toInt_of_neg_inexact {a : S32} {n : Nat} (ha : a.toInt < 0) (hd : ¬ (2 ^ n : Int) ∣ a.toInt) :
    (asr32 a n).toInt = a.toInt.tdiv (2 ^ n) - 1 := by
  rw [asr32_toInt, Int.tdiv_eq_ediv, if_neg (not_or_intro (by omega) hd), Int.sign_eq_one_of_pos (by positivity),
    add_sub_cancel_right]

theorem asr32_neg_one_toInt (n : Nat) : (asr32 (-1) n).toInt = -1 := by
  have hone : (-1 : S32).toInt = -1 := by decide
  rw [asr32_toInt, hone, Int.neg_one_ediv, Int.sign_eq_one_of_pos (by positivity)]

theorem lsr32_toNat_lt (u : U32) {n : Nat} (hn : n < 32) : (lsr32 u n).toNat < 2 ^ (32 - n) := by
  have hpow : 2 ^ n * 2 ^ (32 - n) = 2 ^ 32 := by rw [← pow_add, Nat.add_sub_cancel' (by omega)]
  rw [lsr32_toNat]
  exact Nat.div_lt_of_lt_mul (hpow ▸ u.isLt)

/-! ### The left shift -/

theorem shl32_getLsbD (a : S32) (n : Nat) {i : Nat} (hi : i < 32) :
    (shl32 a n).getLsbD i = (decide (n ≤ i) && a.getLsbD (i - n)) := by
  rw [shl32_eq_shiftLeft, BitVec.getLsbD_shiftLeft]
  simp only [hi, decide_true, Bool.true_and, ← decide_not, Nat.not_lt]

theorem shl32_zext16_one_toInt (v : U16) : (shl32 (zext16 v) 1).toInt = v.toNat * 2 := by
  have := latch_toNat_le v
  rw [shl32_toInt _ _ (by rw [zext16_toInt]; omega), zext16_toInt]
  rfl

theorem shl32_sext16_sixteen_toInt (v : S16) : (shl32 (sext16 v) 16).toInt = v.toInt * 65536 := by
  have := latch_toInt_mem v
  rw [shl32_toInt _ _ (by rw [sext16_toInt]; omega), sext16_toInt]
  rfl

/-! ### The unsigned operations -/

theorem addu32_toNat (u v : U32) : (addu32 u v).toNat = (u.toNat + v.toNat) % 4294967296 := by
  rw [addu32_eq_add, BitVec.toNat_add]

theorem subu32_toNat (u v : U32) : ((subu32 u v).toNat : Int) = ((u.toNat : Int) - v.toNat) % 4294967296 :=
  mod32_toNat _

theorem mulu32_toNat (u v : U32) : (mulu32 u v).toNat = u.toNat * v.toNat % 4294967296 := by
  rw [mulu32_eq_mul, BitVec.toNat_mul]

/-! ### The obligations -/

/-- Settles O25: the floor is the shift, so its range, its bits and its distance from the truncating quotient are those
of a floor quotient by a power of two. -/
theorem rightShiftOfSignedIsFloor : Obligations.RightShiftOfSignedIsFloor := by
  refine ⟨fun a n _ hn => ?_, by decide, by decide, by decide⟩
  obtain ⟨hlo, hhi⟩ := asr32_toInt_mem a hn
  exact ⟨asr32_toInt a n, hlo, hhi, fun _ hi => asr32_getLsbD a n hi, asr32_neg_one_toInt n,
    asr32_toInt_of_neg_inexact⟩

/-- Settles O24: each of the three is `wrap32` of its exact result. -/
theorem signedOperationsWrapModulo : Obligations.SignedOperationsWrapModulo :=
  ⟨fun a b => ⟨wrap32_toInt_sub_emod _, wrap32_toInt_sub_emod _, wrap32_toInt_sub_emod _, add32_toInt a b,
    sub32_toInt a b, mul32_toInt a b⟩, by decide, by decide, by decide⟩

/-- Settles O26: the value is `wrap32` of the exact one, the bits are those of the machine's left shift, and the two
shifts of the listings stay in range. -/
theorem leftShiftDropsTopBits : Obligations.LeftShiftDropsTopBits :=
  ⟨fun a n _ => ⟨wrap32_toInt_sub_emod _, fun _ hi => shl32_getLsbD a n hi⟩, shl32_zext16_one_toInt,
    shl32_sext16_sixteen_toInt⟩

/-- Settles O27: each operation by its value lemma. -/
theorem unsignedOperationsAndDivide : Obligations.UnsignedOperationsAndDivide :=
  ⟨fun u v => ⟨addu32_toNat u v, subu32_toNat u v, mulu32_toNat u v⟩,
    fun u n hn => ⟨lsr32_toNat u n, lsr32_toNat_lt u hn⟩, divu32_toNat, by decide, by decide⟩

end Sys2Proof.Machine
end

section
/-!
PROOF. The calibration family (41_calibration.md R83 to R86): the latches a block decodes to, what `LDCAL` leaves of
them, and the round trip of `CalDecode` and `CalEncode` through the typed reads.
-/

namespace Sys2Proof.Machine

/-! ### The latches of a block -/

@[simp] theorem calDecode_getElem (b : CalBlock) {k : Nat} (hk : k < 12) :
    (calDecode b)[k] = littleEndian b[2 * k] b[2 * k + 1] := by
  simp [calDecode]

theorem littleEndian_toNat (lo hi : Byte) : (littleEndian lo hi).toNat = hi.toNat * 256 + lo.toNat := by
  rw [littleEndian, BitVec.toNat_append, ← Nat.shiftLeft_add_eq_or_of_lt lo.isLt, Nat.shiftLeft_eq]

@[simp] theorem extractLsb'_littleEndian_low (lo hi : Byte) : (littleEndian lo hi).extractLsb' 0 8 = lo :=
  BitVec.extractLsb'_append_eq_right

@[simp] theorem extractLsb'_littleEndian_high (lo hi : Byte) : (littleEndian lo hi).extractLsb' 8 8 = hi :=
  BitVec.extractLsb'_append_eq_left

/-- Settles O20: a latch is its two bytes, the one at the odd offset above. -/
theorem calDecodeIsLittleEndian : Obligations.CalDecodeIsLittleEndian := by
  intro b k
  have hlatch := calDecode_getElem b k.isLt
  exact ⟨hlatch, hlatch ▸ littleEndian_toNat _ _⟩

/-- Settles O21: the latches are those of the block; `loadCal` and `respond` write the two fields named. -/
theorem ldcalLoadsAllTwelveLatches : Obligations.LdcalLoadsAllTwelveLatches :=
  fun b s => ⟨calDecode b, exec_ldcal b s, fun k => calDecode_getElem b k.isLt⟩

/-! ### The bytes of an encoded block -/

theorem calEncode_getElem_even (v : CalValues) {k : Nat} (hk : k < 12) :
    (calEncode v)[2 * k] = (calPatterns v)[k].extractLsb' 0 8 := by
  simp [calEncode]

theorem calEncode_getElem_odd (v : CalValues) {k : Nat} (hk : k < 12) :
    (calEncode v)[2 * k + 1] = (calPatterns v)[k].extractLsb' 8 8 := by
  have hodd : (2 * k + 1) % 2 = 1 ∧ (2 * k + 1) / 2 = k := by omega
  simp [calEncode, hodd]

/-! ### The round trip -/

/-- Every latch is the pattern of its typed read: of its unsigned value for `dig_T1` and `dig_P1`, of its signed value
for the other ten. -/
theorem calPatterns_calValues (cal : CalPatterns) : calPatterns (calValues cal) = cal := by
  ext k hk
  interval_cases k <;> simp [calPatterns, calValues]

/-- R86, from the block's side: of each latch, `CalEncode` gives back the byte at the even offset and the byte at the odd
one. -/
theorem calEncode_calValues_calDecode (b : CalBlock) : calEncode (calValues (calDecode b)) = b := by
  ext j hj
  obtain ⟨k, rfl | rfl⟩ := Nat.even_or_odd' j
  · rw [calEncode_getElem_even _ (by omega)]
    simp only [calPatterns_calValues, calDecode_getElem, extractLsb'_littleEndian_low]
  · rw [calEncode_getElem_odd _ (by omega)]
    simp only [calPatterns_calValues, calDecode_getElem, extractLsb'_littleEndian_high]

/-- Settles O23: the latches `LDCAL` loads are the patterns of the twelve values, whose typed reads are the values; and
the patterns of the typed reads are the latches, whose bytes are the block. -/
theorem calibrationBlockRoundTrips : Obligations.CalibrationBlockRoundTrips := by
  refine ⟨fun v s hv => ⟨_, exec_ldcal _ s, ?_⟩, calEncode_calValues_calDecode⟩
  rw [State.respond_cal, State.loadCal_cal, calDecode_calEncode, calValues_calPatterns hv]

end Sys2Proof.Machine
end

section
/-!
PROOF. The temperature family (42_temperature.md R90, R92): each step of `CompT` in the operators of a 32-bit machine, the
operands of `CMPT` as the listing reads them, and the command on top of both.
-/

namespace Sys2Proof.Machine

/-! ### The steps of the listing -/

/-- Step T1. -/
theorem tempVar1_eq_operators (rawT : U20) (c : TempCoef) :
    tempVar1 rawT c =
      (((rawT.setWidth 32).sshiftRight 3 - c.t1 <<< 1) * c.t2).sshiftRight 11 := by
  rw [tempVar1, tempA, asr32_eq_sshiftRight, mul32_eq_mul, sub32_eq_sub, asr32_eq_sshiftRight, shl32_eq_shiftLeft,
    zext20_eq_setWidth]

/-- The difference of step T2, which the listing writes twice. -/
theorem tempD_eq_operators (rawT : U20) (c : TempCoef) :
    tempD rawT c = (rawT.setWidth 32).sshiftRight 4 - c.t1 := by
  rw [tempD, sub32_eq_sub, asr32_eq_sshiftRight, zext20_eq_setWidth]

/-- Step T2. -/
theorem tempVar2_eq_operators (rawT : U20) (c : TempCoef) :
    tempVar2 rawT c = ((tempD rawT c * tempD rawT c).sshiftRight 12 * c.t3).sshiftRight 14 := by
  rw [tempVar2, tempSq, asr32_eq_sshiftRight, mul32_eq_mul, asr32_eq_sshiftRight, mul32_eq_mul]

/-- Step T4. -/
theorem tempCentiC_eq_operators (tFine : S32) :
    tempCentiC tFine = ((tFine * 5 + 128).sshiftRight 8).setWidth 16 := by
  rw [tempCentiC, tempT32, trunc16_eq_setWidth, asr32_eq_sshiftRight, add32_eq_add, mul32_eq_mul]

theorem tempFine_eq_listing (rawT : U20) (c : TempCoef) : tempFine rawT c = (Reference.listingT rawT c).1 := by
  rw [tempFine, add32_eq_add, tempVar1_eq_operators, tempVar2_eq_operators, tempD_eq_operators]
  rfl

theorem compT_eq_listing (rawT : U20) (c : TempCoef) : compT rawT c = Reference.listingT rawT c := by
  rw [compT, tempCentiC_eq_operators, tempFine_eq_listing]
  rfl

/-- Settles O32: each primitive is the operator the listing writes, step by step. -/
theorem compTIsTheListing : Obligations.CompTIsTheListing :=
  compT_eq_listing

/-! ### The command -/

theorem rawAssemble_eq_rawOf (t : RawTriple) : rawAssemble t = Reference.rawOf t :=
  rawAssemble_eq_extractLsb' t

theorem tempCoef_eq_tempArgs (cal : CalPatterns) : tempCoef cal = Reference.tempArgs cal := by
  rw [tempCoef, zext16_eq_setWidth, sext16_eq_signExtend, sext16_eq_signExtend, Reference.tempArgs]

theorem compT_operands_eq_listing (t : RawTriple) (cal : CalPatterns) :
    compT (rawAssemble t) (tempCoef cal) = Reference.listingT (Reference.rawOf t) (Reference.tempArgs cal) := by
  rw [compT_eq_listing, rawAssemble_eq_rawOf, tempCoef_eq_tempArgs]

/-- Settles O33: `CMPT` writes the listing's pair with `writeTemperature` and answers it with `respond`, and these two
write the three fields named. -/
theorem cmptWritesBothTemperatureRegisters : Obligations.CmptWritesBothTemperatureRegisters := by
  intro t s
  rw [exec_cmpt, compT_operands_eq_listing]
  rfl

end Sys2Proof.Machine
end

section
/-!
PROOF. The pressure family (43_pressure.md R100 to R104): each step of `CompP` in the operators of a 32-bit machine, the
operands of `CMPP` as the listing reads them, the command on top of both, and the quotient of step P9 as a value.
-/

namespace Sys2Proof.Machine

/-! ### The steps of the listing -/

/-- Step P1. -/
theorem pressVar1a_eq_operators (tFine : S32) : pressVar1a tFine = tFine.sshiftRight 1 - 64000 := by
  rw [pressVar1a, sub32_eq_sub, asr32_eq_sshiftRight]

/-- Step P2, the square that `var1` and `var2` share. -/
theorem pressQQ_eq_operators (var1a : S32) :
    pressQQ var1a = var1a.sshiftRight 2 * var1a.sshiftRight 2 := by
  rw [pressQQ, pressQ, mul32_eq_mul, asr32_eq_sshiftRight]

/-- Steps P2 to P4. -/
theorem pressVar2c_eq_operators (var1a : S32) (c : PressCoef) :
    pressVar2c var1a c =
      ((pressQQ var1a).sshiftRight 11 * c.p6 + (var1a * c.p5) <<< 1).sshiftRight 2 + c.p4 <<< 16 := by
  rw [pressVar2c, pressVar2b, pressVar2a, add32_eq_add, asr32_eq_sshiftRight, shl32_eq_shiftLeft, add32_eq_add,
    mul32_eq_mul, asr32_eq_sshiftRight, shl32_eq_shiftLeft, mul32_eq_mul]

/-- Step P5. -/
theorem pressVar1b_eq_operators (var1a : S32) (c : PressCoef) :
    pressVar1b var1a c =
      ((c.p3 * (pressQQ var1a).sshiftRight 13).sshiftRight 3 + (c.p2 * var1a).sshiftRight 1).sshiftRight 18 := by
  rw [pressVar1b, pressX, pressY, asr32_eq_sshiftRight, add32_eq_add, asr32_eq_sshiftRight, mul32_eq_mul,
    asr32_eq_sshiftRight, asr32_eq_sshiftRight, mul32_eq_mul]

/-- Steps P1, P5 and P6: the value the guard tests. -/
theorem pressVar1c_eq_listingDivisor (tFine : S32) (c : PressCoef) :
    pressVar1c (pressVar1a tFine) c = Reference.listingDivisor tFine c := by
  rw [pressVar1c, asr32_eq_sshiftRight, mul32_eq_mul, add32_eq_add, pressVar1b_eq_operators, pressQQ_eq_operators,
    pressVar1a_eq_operators]
  rfl

/-- Step P8. -/
theorem pressP0_eq_operators (rawP : U20) (var2c : S32) :
    pressP0 rawP var2c = (1048576 - rawP.setWidth 32 - var2c.sshiftRight 12) * 3125 := by
  rw [pressP0, asU32, mulu32_eq_mul, subu32_eq_sub, subu32_eq_sub, zext20_eq_setWidth, asr32_eq_sshiftRight]

/-- Doubling modulo 2^32 is the left shift by 1. -/
theorem mod32_double_eq_shiftLeft (u : U32) : mod32 ((u.toNat : Int) * 2) = u <<< 1 :=
  calc mod32 ((u.toNat : Int) * 2) = mulu32 u 2 := rfl
    _ = u * 2 := mulu32_eq_mul u 2
    _ = u <<< 1 := (BitVec.shiftLeft_eq_mul_twoPow u 1).symm

/-- Step P9: the guard of its branches is the unsigned comparison. -/
theorem pressP1_eq_operators (p0 dv : U32) (h : dv ≠ 0) :
    pressP1 p0 dv h = if p0 < 0x80000000 then p0 <<< 1 / dv else p0 / dv * 2 := by
  rw [pressP1, divu32_eq_udiv, mod32_double_eq_shiftLeft, mulu32_eq_mul, divu32_eq_udiv]
  rfl

/-- Steps P10 to P12. -/
theorem pressFinal_eq_operators (p1 : U32) (c : PressCoef) :
    pressFinal p1 c =
      p1 + ((c.p9 * ((p1 >>> 3 * (p1 >>> 3)) >>> 13)).sshiftRight 12 + (p1 >>> 2 * c.p8).sshiftRight 13
        + c.p7).sshiftRight 4 := by
  rw [pressFinal, pressCorr, pressVar1d, pressW, pressVar2d, asU32, asS32, asS32, addu32_eq_add, mulu32_eq_mul]
  simp only [asr32_eq_sshiftRight, lsr32_eq_ushiftRight, add32_eq_add, mul32_eq_mul]

/-! ### The guard of `CompP` -/

/-- R101: where the guard fires. -/
theorem compP_of_guardFires {rawP : U20} {tFine : S32} {c : PressCoef}
    (h : guardFires (pressVar1c (pressVar1a tFine) c)) : compP rawP tFine c = 0 :=
  dif_pos h

/-- R101: elsewhere. The value the guard tests is the divisor of step P9, which is then not 0. -/
theorem compP_of_divisor_ne_zero {rawP : U20} {tFine : S32} {c : PressCoef}
    (h : asU32 (pressVar1c (pressVar1a tFine) c) ≠ 0) :
    compP rawP tFine c = pressFinal (pressP1 (pressP0 rawP (pressVar2c (pressVar1a tFine) c))
      (asU32 (pressVar1c (pressVar1a tFine) c)) h) c :=
  dif_neg h

theorem compP_eq_listing (rawP : U20) (tFine : S32) (c : PressCoef) :
    compP rawP tFine c = Reference.listingP rawP tFine c := by
  have hguard := pressVar1c_eq_listingDivisor tFine c
  by_cases hdv : Reference.listingDivisor tFine c = 0
  · rw [compP_of_guardFires (hguard.trans hdv), Reference.listingP, if_pos hdv]
  · have hdiv : asU32 (pressVar1c (pressVar1a tFine) c) ≠ 0 := by rwa [asU32, hguard]
    rw [compP_of_divisor_ne_zero hdiv, pressFinal_eq_operators, pressP1_eq_operators, pressP0_eq_operators,
      pressVar2c_eq_operators, pressQQ_eq_operators, asU32, hguard, pressVar1a_eq_operators, Reference.listingP,
      if_neg hdv]

/-- Settles O42: each primitive is the operator the listing writes, step by step, and the guard tests the listing's
divisor. -/
theorem compPIsTheListing : Obligations.CompPIsTheListing :=
  compP_eq_listing

/-! ### The command -/

theorem pressCoef_eq_pressArgs (cal : CalPatterns) : pressCoef cal = Reference.pressArgs cal := by
  rw [pressCoef, zext16_eq_setWidth, Reference.pressArgs]
  rfl

theorem compP_operands_eq_listing (p : RawTriple) (tFine : S32) (cal : CalPatterns) :
    compP (rawAssemble p) tFine (pressCoef cal) =
      Reference.listingP (Reference.rawOf p) tFine (Reference.pressArgs cal) := by
  rw [compP_eq_listing, rawAssemble_eq_rawOf, pressCoef_eq_pressArgs]

/-- Settles O43: `CMPP` answers the listing's pressure with `respond`, and that writes the list of responses only. -/
theorem cmppRespondsAndWritesNothing : Obligations.CmppRespondsAndWritesNothing := by
  intro p s
  rw [exec_cmpp, compP_operands_eq_listing]
  rfl

/-! ### The quotient of step P9 -/

theorem pressP1_toNat_of_doublingFits {p0 dv : U32} (h : dv ≠ 0) (hp : doublingFits p0) :
    (pressP1 p0 dv h).toNat = 2 * p0.toNat / dv.toNat := by
  have hdouble : (mod32 ((p0.toNat : Int) * 2)).toNat = p0.toNat * 2 := mod32_toNat_of_lt (p0.toNat * 2) (by omega)
  rw [pressP1, if_pos hp, divu32_toNat, hdouble, Nat.mul_comm]

theorem pressP1_toNat_of_not_doublingFits {p0 dv : U32} (h : dv ≠ 0) (hp : ¬ doublingFits p0) :
    (pressP1 p0 dv h).toNat = 2 * (p0.toNat / dv.toNat) % 4294967296 := by
  rw [pressP1, if_neg hp, mulu32_toNat, divu32_toNat, Nat.mul_comm]
  rfl

/-- Doubling the quotient by another divisor than 1 stays below the width; by 1, it does not. -/
theorem double_quotient_wraps_iff {n d : Nat} (hn : 2147483648 ≤ n) (hlt : n < 4294967296) (hd : 0 < d) :
    4294967296 ≤ 2 * (n / d) ↔ d = 1 := by
  constructor
  · intro hwrap
    by_contra hne
    have : n / d ≤ n / 2 := Nat.div_le_div_left (by omega) (by omega)
    omega
  · rintro rfl
    omega

/-- Dividing first loses at most 1 of the doubled quotient. -/
theorem quotient_double_le (n : Nat) {d : Nat} (hd : 0 < d) : 2 * n / d ≤ 2 * (n / d) + 1 := by
  have := Nat.lt_mul_div_succ n hd
  exact Nat.le_of_lt_succ (Nat.div_lt_of_lt_mul (by linarith))

/-- Settles O47: the low branch doubles without a wrap; in the high branch only the divisor 1 makes the doubled quotient
reach 2^32, and for any other it is the exact quotient or 1 less. -/
theorem twoBranchScaling : Obligations.TwoBranchScaling := by
  refine ⟨fun p0 dv h => ⟨pressP1_toNat_of_doublingFits h, fun hp => ?_⟩, by decide⟩
  have hd : 0 < dv.toNat := by bv_omega
  have hwraps := double_quotient_wraps_iff hp p0.isLt hd
  rw [pressP1_toNat_of_not_doublingFits h hp.not_gt]
  refine ⟨rfl, by omega, hwraps, fun hne => ?_⟩
  rw [Nat.mod_eq_of_lt (Nat.not_le.mp (mt hwraps.mp hne))]
  exact ⟨Nat.mul_div_le_mul_div_assoc _ _ _, quotient_double_le _ hd⟩

end Sys2Proof.Machine
end

section
/-!
PROOF. The sample and read-back family (44_sample_readback.md R120, R121): `CONV` as the two listings, and what `RDLT`
can answer.
-/

namespace Sys2Proof.Machine

/-! ### `CONV` -/

/-- R120: what the two temperature registers held before is not read. -/
theorem exec_conv_writeTemperature (p t : RawTriple) (s : State) (tf : S32) (lt : S16) :
    exec (.conv p t) (s.writeTemperature tf lt) = exec (.conv p t) s := by
  rw [exec_conv, exec_conv, State.writeTemperature_cal]
  rfl

/-- Settles O52: `CONV` writes the listing's pair with `writeTemperature`, whatever that writes over, and answers the
listing's pressure at the `t_fine` of that pair with `respond`. -/
theorem convUsesTheNewTFine : Obligations.ConvUsesTheNewTFine := by
  refine ⟨fun p t s => ?_, exec_conv_writeTemperature⟩
  rw [exec_conv, compP_operands_eq_listing, compT_operands_eq_listing]
  rfl

/-! ### `RDLT` -/

/-- The pattern that reset leaves in `LAST_T` is the never-read sentinel (R27). -/
theorem lastTReset_eq_ofInt : Config.lastTReset = BitVec.ofInt 16 (-27315) := by decide

theorem tempInRange_of_fromOneComputation {s : State} (h : FromOneComputation s) : TempInRange s.lastT := by
  obtain ⟨⟨hlo, hhi⟩, htemp⟩ := h
  constructor <;> omega

/-- R29: `LAST_T` is the sentinel or in the range of a temperature. -/
theorem lastT_mem_of_registersInv {s : State} (h : RegistersInv s) :
    s.lastT.toInt = -27315 ∨ TempInRange s.lastT := by
  obtain ⟨hsentinel, -⟩ | hcomputed := h
  · left
    rw [hsentinel]
    rfl
  · exact .inr (tempInRange_of_fromOneComputation hcomputed)

/-- Settles O54: `RDLT` only responds, with the sentinel at reset; the three commands are `loadCal` and `respond`, which
leave `LAST_T` alone; and the invariant bounds it. -/
theorem rdltReadsLastTAndWritesNothing : Obligations.RdltReadsLastTAndWritesNothing := by
  refine ⟨exec_rdlt, ?_, fun b p s => ⟨?_, ?_, ?_⟩, fun s => lastT_mem_of_registersInv⟩
  · rw [← lastTReset_eq_ofInt]
    exact exec_rdlt State.reset
  · exact ⟨_, exec_ldcal b s, by simp⟩
  · exact ⟨_, exec_cmpp p s, by simp⟩
  · exact ⟨_, exec_rdlt s, by simp⟩

end Sys2Proof.Machine
end

section
/-!
PROOF. The decoder (30_encoding.md R45 to R47, R52, R53, R55): which opcodes name a format, when the bytes after one are
enough, and that the bytes of a decoded command are its packet.
-/

namespace Sys2Proof.Machine

open Sys2Proof.Laws

/-! ### The packet of a command -/

theorem packetShape (i : Instr) : PacketShape.Statement i := by
  cases i with
  | ldcal b => exact PacketShape.ldcal b
  | cmpt t => exact PacketShape.cmpt t
  | cmpp p => exact PacketShape.cmpp p
  | conv p t => exact PacketShape.conv p t
  | rdlt => exact PacketShape.rdlt

theorem encode_ne_nil (i : Instr) : encode i ≠ [] := by
  obtain ⟨⟨body, hbody⟩, -, -⟩ := packetShape i
  simp [hbody]

/-- Settles O10: the payload of each format is taken back whole, whatever follows it. -/
theorem decodeOfEncodeIsTheCommand : Obligations.DecodeOfEncodeIsTheCommand :=
  decode_encode_append

/-! ### A stream of packets -/

theorem decodeStream_succ_of_decode {bs rest : List Byte} {i : Instr} {is : List Instr} {fuel : Nat}
    (h : decode bs = .ok (i, rest)) (hrest : decodeStream fuel rest = .ok is) :
    decodeStream (fuel + 1) bs = .ok (i :: is) := by
  cases bs with
  | nil => cases h
  | cons b bs => simp only [decodeStream, h, hrest]

/-- One unit of fuel for each byte is enough, since no packet is empty. -/
theorem decodeStream_packets (is : List Instr) {fuel : Nat} (hfuel : (is.flatMap encode).length ≤ fuel) :
    decodeStream fuel (is.flatMap encode) = .ok is := by
  induction is generalizing fuel with
  | nil => simp [decodeStream]
  | cons i is ih =>
    have hpos := List.length_pos_iff.2 (encode_ne_nil i)
    rw [List.flatMap_cons, List.length_append] at hfuel
    obtain ⟨n, rfl⟩ : ∃ n, fuel = n + 1 := ⟨fuel - 1, by omega⟩
    rw [List.flatMap_cons]
    exact decodeStream_succ_of_decode (decode_encode_append i _) (ih (by omega))

/-- Settles O12: by induction over the commands, each taking its own packet off the front. -/
theorem streamOfPacketsDecodesInOrder : Obligations.StreamOfPacketsDecodesInOrder :=
  fun is => decodeStream_packets is le_rfl

/-! ### The payloads -/

theorem takeTriple_eq_some_iff {bs rest : List Byte} {t : RawTriple} :
    takeTriple bs = some (t, rest) ↔ bs = t.toBytes ++ rest := by
  constructor
  · intro h
    match bs, h with
    | _ :: _ :: _ :: _, rfl => rfl
  · rintro rfl
    exact takeTriple_toBytes_append t rest

theorem takeBlock_eq_some_iff {bs rest : List Byte} {b : CalBlock} :
    takeBlock bs = some (b, rest) ↔ bs = b.toList ++ rest := by
  constructor
  · intro h
    unfold takeBlock at h
    split at h
    · cases h
      exact (List.take_append_drop 24 bs).symm
    · cases h
  · rintro rfl
    exact takeBlock_toList_append b rest

theorem takeTriple_eq_none_iff {bs : List Byte} : takeTriple bs = none ↔ bs.length < 3 := by
  match bs with
  | [] | [_] | [_, _] => simp [takeTriple]
  | _ :: _ :: _ :: _ => simp [takeTriple]

theorem takeBlock_eq_none_iff {bs : List Byte} : takeBlock bs = none ↔ bs.length < 24 := by
  simp [takeBlock]

/-! ### The opcode map -/

/-- The five opcodes of R47 are the only ones with a format. -/
theorem opcode_of_formatOf {op : Byte} {f : Format} (h : formatOf op = some f) :
    (op = opLDCAL ∧ f = .c24) ∨ (op = opCMPT ∧ f = .r3) ∨ (op = opCMPP ∧ f = .r3) ∨ (op = opCONV ∧ f = .d6) ∨
      (op = opRDLT ∧ f = .n) := by
  unfold formatOf at h
  split_ifs at h <;> cases h <;> simp [*]

theorem formatOf_eq_none_iff {op : Byte} : formatOf op = none ↔ op.toNat = 0 ∨ 6 ≤ op.toNat := by
  unfold formatOf
  split_ifs with h1 h2 h3 h4 h5
  · simp [h1, opLDCAL]
  · simp [h2, opCMPT]
  · simp [h3, opCMPP]
  · simp [h4, opCONV]
  · simp [h5, opRDLT]
  · simp only [opLDCAL, opCMPT, opCMPP, opCONV, opRDLT] at h1 h2 h3 h4 h5
    exact iff_of_true rfl (by bv_omega)

/-! ### The decoder, by the payload -/

/-- What is taken after an opcode, together with the opcode, is the packet of the command. -/
theorem takePayload_eq_some {op : Byte} {body rest : List Byte} {i : Instr}
    (h : takePayload op body = some (i, rest)) : op :: body = encode i ++ rest := by
  unfold takePayload at h
  split_ifs at h with h1 h2 h3 h4 h5
  · obtain ⟨⟨b, _⟩, hb, heq⟩ := Option.map_eq_some_iff.1 h
    cases heq
    rw [takeBlock_eq_some_iff.1 hb, h1]
    rfl
  · obtain ⟨⟨t, _⟩, ht, heq⟩ := Option.map_eq_some_iff.1 h
    cases heq
    rw [takeTriple_eq_some_iff.1 ht, h2]
    rfl
  · obtain ⟨⟨p, _⟩, hp, heq⟩ := Option.map_eq_some_iff.1 h
    cases heq
    rw [takeTriple_eq_some_iff.1 hp, h3]
    rfl
  · split at h
    next p body' hp =>
      obtain ⟨⟨t, _⟩, ht, heq⟩ := Option.map_eq_some_iff.1 h
      cases heq
      rw [takeTriple_eq_some_iff.1 hp, takeTriple_eq_some_iff.1 ht, h4]
      rfl
    next => cases h
  · cases h
    rw [h5]
    rfl

/-- R53: the payload is missing exactly when the packet is shorter than its format. -/
theorem takePayload_eq_none_iff {op : Byte} {f : Format} (h : formatOf op = some f) (body : List Byte) :
    takePayload op body = none ↔ body.length + 1 < f.bytes := by
  obtain ⟨rfl, rfl⟩ | ⟨rfl, rfl⟩ | ⟨rfl, rfl⟩ | ⟨rfl, rfl⟩ | ⟨rfl, rfl⟩ := opcode_of_formatOf h
  · exact Option.map_eq_none_iff.trans (takeBlock_eq_none_iff.trans Nat.succ_lt_succ_iff.symm)
  · exact Option.map_eq_none_iff.trans (takeTriple_eq_none_iff.trans Nat.succ_lt_succ_iff.symm)
  · exact Option.map_eq_none_iff.trans (takeTriple_eq_none_iff.trans Nat.succ_lt_succ_iff.symm)
  · match body with
    | [] | [_] | [_, _] => simp [takePayload, takeTriple, Format.bytes, opLDCAL, opCMPT, opCMPP, opCONV]
    | _ :: _ :: _ :: body =>
      have hlen : body.length < 3 ↔ body.length + 3 + 1 < Format.d6.bytes := Nat.add_lt_add_iff_right.symm
      exact Option.map_eq_none_iff.trans (takeTriple_eq_none_iff.trans hlen)
  · simp [takePayload, Format.bytes, opLDCAL, opCMPT, opCMPP, opCONV, opRDLT]

theorem decode_of_formatOf_none {op : Byte} (h : formatOf op = none) (body : List Byte) :
    decode (op :: body) = .error (.reserved op) := by
  simp only [decode, h]

theorem decode_eq_ok {op : Byte} {body rest : List Byte} {i : Instr} (h : decode (op :: body) = .ok (i, rest)) :
    takePayload op body = some (i, rest) := by
  cases hf : formatOf op with
  | none =>
    rw [decode_of_formatOf_none hf] at h
    cases h
  | some f =>
    cases hp : takePayload op body with
    | none => simp only [decode, hf, hp, reduceCtorEq] at h
    | some r =>
      simp only [decode, hf, hp, Except.ok.injEq] at h
      rw [h]

theorem decode_of_lt_bytes {op : Byte} {body : List Byte} {f : Format} (hf : formatOf op = some f)
    (hlt : body.length + 1 < f.bytes) : decode (op :: body) = .error (.short op (body.length + 1)) := by
  simp only [decode, hf, (takePayload_eq_none_iff hf body).2 hlt]

theorem decode_of_bytes_le {op : Byte} {body : List Byte} {f : Format} (hf : formatOf op = some f)
    (hle : f.bytes ≤ body.length + 1) : ∃ i rest, decode (op :: body) = .ok (i, rest) := by
  cases hp : takePayload op body with
  | none => exact absurd ((takePayload_eq_none_iff hf body).1 hp) hle.not_gt
  | some r => exact ⟨r.1, r.2, by simp only [decode, hf, hp]⟩

theorem eq_encode_append_of_decode {bs rest : List Byte} {i : Instr} (h : decode bs = .ok (i, rest)) :
    bs = encode i ++ rest := by
  cases bs with
  | nil => cases h
  | cons op body => exact takePayload_eq_some (decode_eq_ok h)

/-- Settles O11: what the decoder takes is the packet of the command it answers. -/
theorem encodeOfDecodeIsTheBytes : Obligations.EncodeOfDecodeIsTheBytes :=
  fun _ _ _ => eq_encode_append_of_decode

/-- R55: the bytes of a decoded packet are those of the format its opcode selects. -/
theorem length_of_decode {op : Byte} {body rest : List Byte} {i : Instr} {f : Format}
    (h : decode (op :: body) = .ok (i, rest)) (hf : formatOf op = some f) :
    body.length + 1 = f.bytes + rest.length := by
  obtain ⟨⟨body', hbody⟩, hformat, hlen⟩ := packetShape i
  have hbytes := eq_encode_append_of_decode h
  have hop : op = opcodeOf i := by
    rw [hbody] at hbytes
    exact List.head_eq_of_cons_eq hbytes
  have hfi : f = i.format := Option.some.inj (hf.symm.trans (hop ▸ hformat))
  have := congrArg List.length hbytes
  rw [List.length_append, hlen] at this
  rw [hfi]
  exact this

/-- Settles O13: the opcode fixes the format, and enough bytes for it always decode. -/
theorem packetLengthIsFixedByByteZero : Obligations.PacketLengthIsFixedByByteZero := by
  refine ⟨fun op body i rest h => ?_, fun _ _ _ => decode_of_bytes_le⟩
  have hlen (f : Format) (hf : formatOf op = some f) := length_of_decode h hf
  exact ⟨fun hop => hlen .c24 (hop ▸ rfl), fun hop => hlen .r3 (hop ▸ rfl), fun hop => hlen .r3 (hop ▸ rfl),
    fun hop => hlen .d6 (hop ▸ rfl), fun hop => hlen .n (hop ▸ rfl)⟩

/-- Settles O14: the five lines and their packets are evaluated. -/
theorem workedEncodingsAssembleAndDecode : Obligations.WorkedEncodingsAssembleAndDecode :=
  ⟨rfl, rfl, rfl, rfl, rfl, rfl, rfl, rfl, rfl, rfl⟩

end Sys2Proof.Machine
end

section
/-!
PROOF. The step on the host's stream (30_encoding.md R52, R53; 70_reset_and_hazards.md R146): what is fetched by what
the bytes before the next reset decode to, and what a reset takes with it.
-/

namespace Sys2Proof.Machine

/-! ### The step, by what is fetched -/

theorem step_of_fetch_reset {s : State} {rest : List HostEvent} (h : fetch s.input = .reset rest) :
    step s = .next (s.withInput rest).applyReset := by
  simp only [step, h]

theorem step_of_fetch_reserved {s : State} {op : Byte} (h : fetch s.input = .reserved op) :
    step s = .refused (.reservedOpcode op) := by
  simp only [step, h]

theorem step_of_fetch_short {s : State} {op : Byte} {got : Nat} (h : fetch s.input = .short op got) :
    step s = .refused (.shortPacket op got) := by
  simp only [step, h]

/-- A reset event next in the stream is taken whatever stands after it. -/
theorem step_reset {s : State} {es : List HostEvent} (h : s.input = .reset :: es) :
    step s = .next (s.withInput es).applyReset :=
  step_of_fetch_reset (h ▸ rfl)

theorem step_resetInCommand {s : State} {es : List HostEvent} (h : s.input = .resetInCommand :: es) :
    step s = .next (s.withInput es).applyReset :=
  step_of_fetch_reset (h ▸ rfl)

/-- Settles O2: either event is fetched as a reset of the rest of the stream. -/
theorem resetEventGivesTheResetState : Obligations.ResetEventGivesTheResetState := by
  intro s es h
  rw [← lastTReset_eq_ofInt]
  obtain h | h := h
  · exact step_reset h
  · exact step_resetInCommand h

/-- Settles O5: nothing is fetched from an empty stream. -/
theorem idleStateIsUnchanged : Obligations.IdleStateIsUnchanged := by
  intro s h
  simp only [step, h, fetch]

/-- Settles O6: bytes that decode are fetched as their command, unless a reset shuts it out. -/
theorem stepRunsTheDecodedCommand : Obligations.StepRunsTheDecodedCommand := by
  intro s i rest hdecode hhead
  simp only [step, fetch_of_decode hdecode, fetchCommand_of_head_ne i hhead]
  rfl

/-- Settles O7: the stream begins with the packet, which is decoded whole and taken off. -/
theorem stepRunsTheIssuedPacket : Obligations.StepRunsTheIssuedPacket :=
  fun _ _ _ => step_encode_append

/-! ### Reserved opcodes -/

theorem fetch_of_formatOf_none {op : Byte} (h : formatOf op = none) (es : List HostEvent) :
    fetch (.byte op :: es) = .reserved op := by
  simp only [fetch, decode_of_formatOf_none h]

/-- Settles O8: the opcode map has no format for these bytes, and the decoder looks there first. -/
theorem reservedOpcodesAreRefused : Obligations.ReservedOpcodesAreRefused := by
  refine ⟨fun op body h => ?_, fun s op es h hs => ?_, fun op hlo hhi => ?_⟩
  · exact decode_of_formatOf_none (formatOf_eq_none_iff.2 h) body
  · exact step_of_fetch_reserved (hs ▸ fetch_of_formatOf_none (formatOf_eq_none_iff.2 h) es)
  · refine Option.ne_none_iff_exists'.1 (mt formatOf_eq_none_iff.1 ?_)
    omega

/-! ### Incomplete packets -/

/-- A stream whose bytes end inside a packet is fetched as that incomplete packet, whatever stands after the bytes. -/
theorem fetch_of_lt_bytes {op : Byte} {body : List Byte} {f : Format} {es : List HostEvent}
    (hf : formatOf op = some f) (hlt : body.length + 1 < f.bytes) (hes : leadingBytes es = []) :
    fetch ((op :: body).map .byte ++ es) = fetchPartial op (body.length + 1) es := by
  have hafter : afterBytes es = es := by simpa [hes] using leadingBytes_append_afterBytes es
  simp only [List.map_cons, List.cons_append, fetch, leadingBytes_map_append, hes, List.append_nil,
    decode_of_lt_bytes hf hlt, afterBytes_map_append, hafter]

/-- Settles O9: the payload is missing, and with no event after the bytes nothing supplies it. -/
theorem shortPacketsAreRefused : Obligations.ShortPacketsAreRefused := by
  refine ⟨fun op body f => decode_of_lt_bytes, fun s op body f hf hlt hs => step_of_fetch_short ?_⟩
  rw [hs, ← List.append_nil ((op :: body).map HostEvent.byte), fetch_of_lt_bytes hf hlt rfl]
  rfl

/-- Settles O3: a reset after part of a packet, or after all of it and before the response, is fetched as a reset of
what follows. -/
theorem resetAbandonsTheCommandInProgress : Obligations.ResetAbandonsTheCommandInProgress := by
  refine ⟨fun s op body f e es hf hlt he hs => ?_, fun s i es hs => ?_⟩
  · have hfetch : fetch s.input = .reset es := by
      obtain rfl | rfl := he
      · rw [hs, fetch_of_lt_bytes hf hlt rfl]
        rfl
      · rw [hs, fetch_of_lt_bytes hf hlt rfl]
        rfl
    exact step_of_fetch_reset hfetch
  · have hfetch : fetch s.input = .reset es := by
      rw [hs, fetch_encode_append]
      rfl
    exact step_of_fetch_reset hfetch

end Sys2Proof.Machine
end

section
/-!
PROOF. Lines with byte operands (30_encoding.md R56) and the bytes of a raw value (R51).
-/

namespace Sys2Proof.Machine

/-! ### Byte operands -/

theorem inByte_iff (x : Int) : inByte x = true ↔ 0 ≤ x ∧ x ≤ 255 := by simp [inByte]

theorem inByte_eq_false_of_outside {x : Int} (h : x < 0 ∨ 255 < x) : inByte x = false := by
  rw [Bool.eq_false_iff, Ne, inByte_iff]
  omega

theorem all_inByte_eq_false {bs : List Int} {x : Int} (hmem : x ∈ bs) (h : x < 0 ∨ 255 < x) : bs.all inByte = false :=
  List.all_eq_false.2 ⟨x, hmem, by simp [inByte_eq_false_of_outside h]⟩

@[simp] theorem inByte_toNat (b : Byte) : inByte b.toNat = true := by
  have := b.isLt
  rw [inByte_iff]
  omega

@[simp] theorem asmByte_toNat (b : Byte) : asmByte b.toNat = b := by
  rw [asmByte, BitVec.ofInt_natCast, BitVec.ofNat_toNat, BitVec.setWidth_eq]

theorem assemble_ldcal_toList (b : CalBlock) :
    assemble (.ldcal (b.toList.map fun x => (x.toNat : Int))) = some (.ldcal b) := by
  have hblock : (b.toList.map fun x => (x.toNat : Int)).map asmByte = b.toList := by
    simp [Function.comp_def]
  have htake : takeBlock b.toList = some (b, []) := takeBlock_eq_some_iff.2 (List.append_nil _).symm
  rw [assemble_of_wellFormed (by simp [AsmLine.wellFormed]), assembleInRange, hblock, htake]
  rfl

/-- Settles O16: a byte is its own operand, and a line of another length or with an operand that is no byte is not well
formed. -/
theorem byteLinesAssembleInOrder : Obligations.ByteLinesAssembleInOrder := by
  refine ⟨fun b => ?_, fun b0 b1 b2 => ⟨?_, ?_⟩, fun b0 b1 b2 b3 b4 b5 => ?_, rfl, fun bs hlen => ?_,
    fun bs x hmem hx => ?_, fun b0 b1 b2 x hmem hx => ?_, fun b0 b1 b2 b3 b4 b5 x hmem hx => ?_⟩
  · rw [assemble_ldcal_toList]
    rfl
  · rw [assemble_of_wellFormed (by simp [AsmLine.wellFormed])]
    simp [assembleInRange, asmTriple, encode, RawTriple.toBytes, opCMPT]
  · rw [assemble_of_wellFormed (by simp [AsmLine.wellFormed])]
    simp [assembleInRange, asmTriple, encode, RawTriple.toBytes, opCMPP]
  · rw [assemble_of_wellFormed (by simp [AsmLine.wellFormed])]
    simp [assembleInRange, asmTriple, encode, RawTriple.toBytes, opCONV]
  · exact assemble_of_not_wellFormed (by simp [AsmLine.wellFormed, hlen])
  · exact assemble_of_not_wellFormed (by simp [AsmLine.wellFormed, all_inByte_eq_false hmem hx])
  · have hall := all_inByte_eq_false hmem hx
    simp only [List.all_cons, List.all_nil, Bool.and_true, ← Bool.and_assoc] at hall
    exact ⟨assemble_of_not_wellFormed hall, assemble_of_not_wellFormed hall⟩
  · have hall := all_inByte_eq_false hmem hx
    simp only [List.all_cons, List.all_nil, Bool.and_true, ← Bool.and_assoc] at hall
    exact assemble_of_not_wellFormed hall

/-! ### `RawBytes` and `RawAssemble` -/

/-- The third byte is rebuilt from its high half alone. -/
theorem rawBytes_rawAssemble_xlsb_toNat (t : RawTriple) :
    (rawBytes (rawAssemble t)).xlsb.toNat = t.xlsb.toNat / 16 * 16 := by
  have := t.xlsb.isLt
  rw [rawBytes_xlsb_toNat, rawAssemble_toNat]
  omega

theorem rawBytes_rawAssemble_eq_iff (t : RawTriple) :
    rawBytes (rawAssemble t) = t ↔ t.xlsb.toNat % 16 = 0 := by
  have hx := rawBytes_rawAssemble_xlsb_toNat t
  constructor
  · intro h
    rw [h] at hx
    omega
  · intro h
    have := t.lsb.isLt
    have := t.xlsb.isLt
    rw [RawTriple.mk.injEq]
    refine ⟨BitVec.eq_of_toNat_eq ?_, BitVec.eq_of_toNat_eq ?_, BitVec.eq_of_toNat_eq (by omega)⟩
    · rw [rawBytes_msb_toNat, rawAssemble_toNat]
      omega
    · rw [rawBytes_lsb_toNat, rawAssemble_toNat]
      omega

/-- Settles O19: the three bytes by value, and the only loss is the low half of the third one. -/
theorem rawBytesInvertsRawAssemble : Obligations.RawBytesInvertsRawAssemble :=
  ⟨fun r => ⟨rawBytes_msb_toNat r, rawBytes_lsb_toNat r, rawBytes_xlsb_toNat r, rawAssemble_rawBytes r⟩,
    rawBytes_rawAssemble_eq_iff, by decide⟩

end Sys2Proof.Machine
end

section
/-!
PROOF. When a primitive is exact (40_arith.md R65, R72, R75, R77): a narrowed result is the exact one just where that
one fits, a pattern is read signed or unsigned, and squares fit up to a root of 46340.
-/

namespace Sys2Proof.Machine

/-! ### Exactness -/

theorem wrap32_toInt_eq_iff (z : Int) : (wrap32 z).toInt = z ↔ Fits32 z :=
  ⟨fun h => h ▸ toInt_fits _, wrap32_toInt_of_fits z⟩

theorem mul32_toInt_eq_iff (a b : S32) : (mul32 a b).toInt = a.toInt * b.toInt ↔ Fits32 (a.toInt * b.toInt) :=
  wrap32_toInt_eq_iff _

/-- R77: 46340 is the largest root whose square fits. -/
theorem square_fits_iff (d : Int) : Fits32 (d * d) ↔ -46340 ≤ d ∧ d ≤ 46340 := by
  constructor
  · rintro ⟨-, h⟩
    constructor <;> nlinarith
  · rintro ⟨hlo, hhi⟩
    constructor <;> nlinarith

/-! ### Reinterpretation -/

theorem asS32_toInt (u : U32) :
    (asS32 u).toInt = if u.toNat < 2147483648 then (u.toNat : Int) else u.toNat - 4294967296 := by
  rw [asS32, BitVec.toInt_eq_toNat_cond]
  split_ifs <;> omega

theorem asS32_toInt_of_lt {u : U32} (h : u.toNat < 2147483648) : (asS32 u).toInt = u.toNat := by
  rw [asS32_toInt, if_pos h]

theorem asU32_toNat (a : S32) :
    ((asU32 a).toNat : Int) = if 0 ≤ a.toInt then a.toInt else a.toInt + 4294967296 := by
  have h := asS32_toInt a
  rw [asS32] at h
  rw [asU32]
  have := a.isLt
  split_ifs at h ⊢ <;> omega

/-- The unsigned reading of a signed value is the value modulo 2^32. -/
theorem asU32_toNat_eq_emod (a : S32) : ((asU32 a).toNat : Int) = a.toInt % 4294967296 := by
  have := toInt_fits a
  rw [asU32_toNat]
  split_ifs <;> omega

/-- Settles O28: a pattern is read by its top bit, and each operation on 32-bit patterns is one operator for both
readings. -/
theorem lowWordIgnoresSignedness : Obligations.LowWordIgnoresSignedness := by
  refine ⟨fun a => ⟨asU32_toNat a, rfl⟩, fun u => ⟨asS32_toInt u, rfl⟩, fun a b => ⟨?_, ?_, ?_, mul32_toInt a b⟩,
    by decide, by decide⟩
  · rw [mul32_eq_mul, mulu32_eq_mul]
    rfl
  · rw [add32_eq_add, addu32_eq_add]
    rfl
  · rw [sub32_eq_sub, subu32_eq_sub]
    rfl

end Sys2Proof.Machine
end

section
/-!
PROOF. The values of the temperature pipeline (42_temperature.md R93 to R95, 10_state.md R28, R29): each step as an
integer, and the ranges of the steps.
-/

namespace Sys2Proof.Machine

/-! ### Steps T1 and T2, with the coefficients of the latches -/

theorem tempA_toInt (rawT : U20) (cal : CalPatterns) :
    (tempA rawT (tempCoef cal)).toInt = (rawT.toNat : Int) / (8 : Int) - cal[0].toNat * 2 := by
  have hraw := rawT.isLt
  have ht1 := latch_toNat_le cal[0]
  have hshl : (shl32 (tempCoef cal).t1 1).toInt = cal[0].toNat * 2 := shl32_zext16_one_toInt _
  have hasr : (asr32 (zext20 rawT) 3).toInt = (rawT.toNat : Int) / 8 := by rw [asr32_toInt, zext20_toInt]; rfl
  rw [tempA, sub32_toInt _ _ (by omega), hasr, hshl]

theorem tempD_toInt (rawT : U20) (cal : CalPatterns) :
    (tempD rawT (tempCoef cal)).toInt = (rawT.toNat : Int) / (16 : Int) - cal[0].toNat := by
  have hraw := rawT.isLt
  have ht1 := latch_toNat_le cal[0]
  have hasr : (asr32 (zext20 rawT) 4).toInt = (rawT.toNat : Int) / 16 := by rw [asr32_toInt, zext20_toInt]; rfl
  rw [tempD, sub32_toInt _ _ (by rw [hasr, tempCoef_t1_toInt]; omega), hasr, tempCoef_t1_toInt]

/-! ### Ranges, for all 32-bit coefficients -/

theorem tempVar1_mem (rawT : U20) (c : TempCoef) :
    -1048576 ≤ (tempVar1 rawT c).toInt ∧ (tempVar1 rawT c).toInt ≤ 1048575 :=
  asr32_toInt_mem _ (n := 11) (by decide)

theorem tempVar2_mem (rawT : U20) (c : TempCoef) :
    -131072 ≤ (tempVar2 rawT c).toInt ∧ (tempVar2 rawT c).toInt ≤ 131071 :=
  asr32_toInt_mem _ (n := 14) (by decide)

/-- Step T3 never wraps. -/
theorem tempFine_toInt (rawT : U20) (c : TempCoef) :
    (tempFine rawT c).toInt = (tempVar1 rawT c).toInt + (tempVar2 rawT c).toInt := by
  have h1 := tempVar1_mem rawT c
  have h2 := tempVar2_mem rawT c
  exact add32_toInt _ _ (by omega)

theorem tempFine_inRange (rawT : U20) (c : TempCoef) : TFineInRange (tempFine rawT c) := by
  have h1 := tempVar1_mem rawT c
  have h2 := tempVar2_mem rawT c
  rw [TFineInRange, tempFine_toInt]
  omega

/-! ### Step T4 -/

theorem mul32_five_toInt {tf : S32} (h : TFineInRange tf) : (mul32 tf 5).toInt = tf.toInt * 5 := by
  have hfive : (5 : S32).toInt = 5 := by decide
  rw [mul32_toInt _ _ (by rw [hfive]; omega), hfive]

theorem add32_mul32_five_toInt {tf : S32} (h : TFineInRange tf) :
    (add32 (mul32 tf 5) 128).toInt = tf.toInt * 5 + 128 := by
  have hround : (128 : S32).toInt = 128 := by decide
  have hmul := mul32_five_toInt h
  rw [add32_toInt _ _ (by rw [hmul, hround]; omega), hmul, hround]

theorem tempT32_toInt {tf : S32} (h : TFineInRange tf) : (tempT32 tf).toInt = (tf.toInt * 5 + 128) / 256 := by
  rw [tempT32, asr32_toInt, add32_mul32_five_toInt h]
  rfl

theorem tempT32_mem {tf : S32} (h : TFineInRange tf) :
    -23040 ≤ (tempT32 tf).toInt ∧ (tempT32 tf).toInt ≤ 23040 := by
  rw [tempT32_toInt h]
  omega

theorem trunc16_toInt_of_mem {a : S32} (h : -32768 ≤ a.toInt ∧ a.toInt ≤ 32767) : (trunc16 a).toInt = a.toInt := by
  have ha := asU32_toNat_eq_emod a
  rw [asU32] at ha
  rw [trunc16_eq_setWidth, BitVec.toInt_setWidth, ha]
  simp only [Int.bmod_def]
  omega

/-- R29: narrowing the temperature to 16 bits never changes it. -/
theorem tempCentiC_toInt {tf : S32} (h : TFineInRange tf) : (tempCentiC tf).toInt = (tempT32 tf).toInt := by
  have := tempT32_mem h
  exact trunc16_toInt_of_mem (by omega)

theorem compT_snd_toInt (rawT : U20) (c : TempCoef) :
    (compT rawT c).2.toInt = (5 * (compT rawT c).1.toInt + 128) / 256 := by
  have h := tempFine_inRange rawT c
  rw [compT, tempCentiC_toInt h, tempT32_toInt h, mul_comm]

/-- Settles O34: the two shifts bound `var1` and `var2`, and from there no step can wrap. -/
theorem temperatureStepRanges : Obligations.TemperatureStepRanges := by
  intro rawT c
  have h := tempFine_inRange rawT c
  obtain ⟨h1lo, h1hi⟩ := tempVar1_mem rawT c
  obtain ⟨h2lo, h2hi⟩ := tempVar2_mem rawT c
  obtain ⟨htlo, hthi⟩ := tempT32_mem h
  exact ⟨h1lo, h1hi, h2lo, h2hi, tempFine_toInt rawT c, h.1, h.2, tempT32_toInt h, htlo, hthi, rfl, tempCentiC_toInt h⟩

/-- Settles O35: in the range of R28 step T4 is the exact floor of (5 * t_fine + 128) / 256. -/
theorem temperatureRoundsHalfUp : Obligations.TemperatureRoundsHalfUp := by
  refine ⟨fun tf h => ?_, by decide⟩
  have ht := tempT32_toInt h
  refine ⟨by rw [ht, mul_comm], ?_, ?_⟩
  · omega
  · omega

end Sys2Proof.Machine
end

section
/-!
PROOF. The two retained registers (10_state.md R27 to R29, 20_memory.md R37): every step leaves them alone, resets them,
or writes both from one temperature computation, and what follows for `T_FINE`, `LAST_T` and `RDLT`.
-/

namespace Sys2Proof.Machine

theorem fromOneComputation_of_compT {s : State} {rawT : U20} {c : TempCoef} (h : (s.tFine, s.lastT) = compT rawT c) :
    FromOneComputation s := by
  have h1 : s.tFine = (compT rawT c).1 := congrArg Prod.fst h
  have h2 : s.lastT = (compT rawT c).2 := congrArg Prod.snd h
  rw [FromOneComputation, h1, h2]
  exact ⟨tempFine_inRange rawT c, compT_snd_toInt rawT c⟩

/-! ### What a command and a step do to the registers -/

theorem exec_fromOneComputation_of_temperatureOf {i : Instr} {rawT : U20} {s s' : State}
    (hi : temperatureOf i = some rawT) (h : exec i s = .next s') : FromOneComputation s' :=
  fromOneComputation_of_compT (exec_temperature_of_some hi h).2

/-- A step keeps both registers, takes a reset, or writes both from one temperature computation. -/
theorem step_registers_cases {s s' : State} (h : step s = .next s') :
    (s'.tFine = s.tFine ∧ s'.lastT = s.lastT ∧ s'.resets = s.resets) ∨
    ((∃ rest, fetch s.input = .reset rest) ∧ NeverRead s') ∨
    FromOneComputation s' := by
  obtain ⟨-, rfl⟩ | ⟨rest, hf, rfl⟩ | ⟨i, rest, -, hexec⟩ := step_cases s s' h
  · exact .inl ⟨rfl, rfl, rfl⟩
  · exact .inr (.inl ⟨⟨rest, hf⟩, rfl, rfl⟩)
  · cases hi : temperatureOf i with
    | none =>
      obtain ⟨htf, hlt⟩ := exec_temperature_of_none hi hexec
      exact .inl ⟨htf, hlt, exec_resets i (s.withInput rest) s' hexec⟩
    | some rawT => exact .inr (.inr (exec_fromOneComputation_of_temperatureOf hi hexec))

/-! ### The invariant -/

/-- Settles O39: the invariant reads only the two registers and the reset counter, and the other two kinds of step
establish one half of it each. -/
theorem stepKeepsRegistersInv : Obligations.StepKeepsRegistersInv := by
  intro s s' hinv h
  obtain ⟨htf, hlt, hresets⟩ | ⟨-, hnever⟩ | hcomputed := step_registers_cases h
  · rw [RegistersInv, NeverRead, FromOneComputation, htf, hlt, hresets]
    exact hinv
  · exact .inl hnever
  · exact .inr hcomputed

theorem registersInv_of_freshReset {s : State} (h : FreshReset s) : RegistersInv s :=
  .inl ⟨h.2.2, h.2.1⟩

/-- Settles O38: `FreshReset` is the reset half of the invariant together with the latches. -/
theorem registersInvHoldsAtReset : Obligations.RegistersInvHoldsAtReset :=
  ⟨registersInv_of_freshReset freshReset_reset, freshReset_reset, freshReset_applyReset,
    fun _ => registersInv_of_freshReset⟩

/-- Settles O1: `State.reset` by its fields. -/
theorem resetStateIsAsSpecified : Obligations.ResetStateIsAsSpecified :=
  ⟨by decide, rfl, rfl, rfl, rfl, rfl⟩

/-! ### The sentinel -/

theorem lastT_toInt_ne_sentinel {s : State} (h : FromOneComputation s) : s.lastT.toInt ≠ -27315 := by
  have := tempInRange_of_fromOneComputation h
  omega

/-- Settles O4: a step that computes a temperature leaves a value in range, and the sentinel is not. -/
theorem onlyResetRestoresTheSentinel : Obligations.OnlyResetRestoresTheSentinel := by
  intro s s' h hsentinel
  obtain ⟨-, hlt, -⟩ | ⟨hreset, -⟩ | hcomputed := step_registers_cases h
  · exact .inl hlt
  · exact .inr hreset
  · exact absurd hsentinel (lastT_toInt_ne_sentinel hcomputed)

theorem lastTReset_toInt : Config.lastTReset.toInt = -27315 := by decide

theorem compT_snd_inRange (rawT : U20) (c : TempCoef) : TempInRange (compT rawT c).2 := by
  have h := tempFine_inRange rawT c
  rw [TempInRange, compT, tempCentiC_toInt h]
  exact tempT32_mem h

/-- Settles O37: a step keeps `LAST_T`, resets it to the sentinel, or leaves a temperature in range. -/
theorem lastTStaysInItsSet : Obligations.LastTStaysInItsSet := by
  refine ⟨lastTReset_toInt, fun s s' hset h => ?_, fun rawT c => ?_⟩
  · obtain ⟨-, hlt, -⟩ | ⟨-, hnever, -⟩ | hcomputed := step_registers_cases h
    · rw [hlt]
      exact hset
    · exact .inl (hnever ▸ lastTReset_toInt)
    · exact .inr (tempInRange_of_fromOneComputation hcomputed)
  · have hmem := compT_snd_inRange rawT c
    exact ⟨tempCentiC_toInt (tempFine_inRange rawT c), hmem, by omega⟩

/-! ### After `CMPT` and `CONV` -/

/-- `CMPT` and `CONV` complete, and leave both registers from one computation. -/
theorem exec_computes {i : Instr} {rawT : U20} (hi : temperatureOf i = some rawT) (s : State) :
    ∃ s', exec i s = .next s' ∧ FromOneComputation s' := by
  obtain ⟨s', -, hexec, -⟩ := exec_responds i s
  exact ⟨s', hexec, exec_fromOneComputation_of_temperatureOf hi hexec⟩

/-- Settles O36: both commands end in a state whose `T_FINE` a temperature computation left. -/
theorem tFineRangeAfterTemperature : Obligations.TFineRangeAfterTemperature := by
  intro p t s
  obtain ⟨s1, h1, hmem1, -⟩ := exec_computes (i := .cmpt t) rfl s
  obtain ⟨s2, h2, hmem2, -⟩ := exec_computes (i := .conv p t) rfl s
  exact ⟨⟨s1, h1, hmem1⟩, ⟨s2, h2, hmem2⟩⟩

/-- Settles O40: both commands leave a computed `LAST_T`, and `RDLT` answers it. -/
theorem firstTemperatureEndsNeverRead : Obligations.FirstTemperatureEndsNeverRead := by
  intro p t s
  obtain ⟨s1, h1, hcomputed1⟩ := exec_computes (i := .cmpt t) rfl s
  obtain ⟨s2, h2, hcomputed2⟩ := exec_computes (i := .conv p t) rfl s
  exact ⟨⟨s1, s1.lastT, h1, lastT_toInt_ne_sentinel hcomputed1, exec_rdlt s1⟩,
    ⟨s2, s2.lastT, h2, lastT_toInt_ne_sentinel hcomputed2, exec_rdlt s2⟩⟩

end Sys2Proof.Machine
end

section
/-!
PROOF. Where no step of the temperature pipeline wraps (40_arith.md R77, 70_reset_and_hazards.md R158): there the model
and the listing in unbounded integers agree, of the values and of the registers of a run.
-/

namespace Sys2Proof.Machine

theorem tempVar1_toInt_of_noWrap {rawT : U20} {c : TempCoef} (h : Fits32 ((tempA rawT c).toInt * c.t2.toInt)) :
    (tempVar1 rawT c).toInt = (tempA rawT c).toInt * c.t2.toInt / 2048 := by
  rw [tempVar1, asr32_toInt, mul32_toInt _ _ h]
  rfl

theorem asr32_tempSq_toInt_of_noWrap {rawT : U20} {c : TempCoef}
    (h : Fits32 ((tempD rawT c).toInt * (tempD rawT c).toInt)) :
    (asr32 (tempSq rawT c) 12).toInt = (tempD rawT c).toInt * (tempD rawT c).toInt / 4096 := by
  rw [asr32_toInt, tempSq, mul32_toInt _ _ h]
  rfl

theorem tempVar2_toInt_of_noWrap {rawT : U20} {c : TempCoef}
    (h : Fits32 ((asr32 (tempSq rawT c) 12).toInt * c.t3.toInt)) :
    (tempVar2 rawT c).toInt = (asr32 (tempSq rawT c) 12).toInt * c.t3.toInt / 16384 := by
  rw [tempVar2, asr32_toInt, mul32_toInt _ _ h]
  rfl

theorem compT_fst_toInt_of_noWrap {cal : CalPatterns} {rawT : U20} (h : NoWrapT rawT (tempCoef cal)) :
    (compT rawT (tempCoef cal)).1.toInt = Reference.exactTFine rawT.toNat (calValues cal) := by
  obtain ⟨h1, hsq, h2⟩ := h
  calc (compT rawT (tempCoef cal)).1.toInt
      = (tempVar1 rawT (tempCoef cal)).toInt + (tempVar2 rawT (tempCoef cal)).toInt := tempFine_toInt rawT _
    _ = Reference.exactTFine rawT.toNat (calValues cal) := by
      rw [tempVar1_toInt_of_noWrap h1, tempVar2_toInt_of_noWrap h2, asr32_tempSq_toInt_of_noWrap hsq, tempA_toInt,
        tempD_toInt]
      simp only [Reference.exactTFine, calValues, tempCoef_t1_toInt]

/-- `CalLoaded(c)`: the typed reads of the latches are the values of `c`. -/
theorem Run.calValues_of_calLoaded {s0 s : State} {is : List Instr} {c : CalValues} (hr : Run s0 is s)
    (hc : CalLoaded c is) (hrange : c.inRange = true) : calValues s.cal = c := by
  rw [hr.cal_of_calLoaded hc, calDecode_calEncode, calValues_calPatterns hrange]

/-- The `t_fine` of a run that meets the two premises. -/
theorem Run.tFine_toInt_of_noWrap {s0 s : State} {is : List Instr} {c : CalValues} {rawT : U20} (hr : Run s0 is s)
    (hc : CalLoaded c is) (ht : TFineFresh rawT is) (hrange : c.inRange = true) (h : NoWrapT rawT (tempCoef s.cal)) :
    s.tFine.toInt = Reference.exactTFine rawT.toNat c := by
  have htf : s.tFine = (compT rawT (tempCoef s.cal)).1 := congrArg Prod.fst (hr.registers_of_tFineFresh ht)
  rw [htf, compT_fst_toInt_of_noWrap h, hr.calValues_of_calLoaded hc hrange]

/-- Settles O41: `t_fine` step by step, the temperature as its rounding, and the registers of a run as those of its last
temperature command under the loaded coefficients. -/
theorem temperatureWithoutWrapIsExact : Obligations.TemperatureWithoutWrapIsExact := by
  refine ⟨fun cal rawT h => ?_, fun s0 s is c rawT hr hc ht hrange h => ?_⟩
  · have htf := compT_fst_toInt_of_noWrap h
    exact ⟨htf, htf ▸ compT_snd_toInt rawT _⟩
  · have htf := hr.tFine_toInt_of_noWrap hc ht hrange h
    have hcomputed := fromOneComputation_of_compT (hr.registers_of_tFineFresh ht)
    exact ⟨htf, htf ▸ hcomputed.2⟩

end Sys2Proof.Machine
end

section
/-!
PROOF. The values of the pressure pipeline (43_pressure.md R106, R107, 40_arith.md R77): the range of each step, the
divisor as an integer, and when it is 0, positive or negative.
-/

namespace Sys2Proof.Machine

/-! ### Steps P1 to P5 -/

theorem pressVar1a_toInt (tf : S32) : (pressVar1a tf).toInt = tf.toInt / 2 - 64000 := by
  have hasr : (asr32 tf 1).toInt = tf.toInt / 2 := asr32_toInt tf 1
  have hoff : (64000 : S32).toInt = 64000 := by decide
  have := toInt_fits tf
  rw [pressVar1a, sub32_toInt _ _ (by omega), hasr, hoff]

theorem shl32_p4_toInt (cal : CalPatterns) : (shl32 (pressCoef cal).p4 16).toInt = cal[6].toInt * 65536 :=
  shl32_sext16_sixteen_toInt _

theorem pressX_mem (v : S32) (c : PressCoef) : -268435456 ≤ (pressX v c).toInt ∧ (pressX v c).toInt ≤ 268435455 :=
  asr32_toInt_mem _ (n := 3) (by decide)

theorem pressY_mem (v : S32) (c : PressCoef) : -1073741824 ≤ (pressY v c).toInt ∧ (pressY v c).toInt ≤ 1073741823 :=
  asr32_toInt_mem _ (n := 1) (by decide)

theorem add32_pressX_pressY_toInt (v : S32) (c : PressCoef) :
    (add32 (pressX v c) (pressY v c)).toInt = (pressX v c).toInt + (pressY v c).toInt := by
  have := pressX_mem v c
  have := pressY_mem v c
  exact add32_toInt _ _ (by omega)

theorem pressVar1b_mem (v : S32) (c : PressCoef) : -8192 ≤ (pressVar1b v c).toInt ∧ (pressVar1b v c).toInt ≤ 8191 :=
  asr32_toInt_mem _ (n := 18) (by decide)

theorem add32_pressVar1b_toInt (v : S32) (c : PressCoef) :
    (add32 32768 (pressVar1b v c)).toInt = 32768 + (pressVar1b v c).toInt := by
  have hoff : (32768 : S32).toInt = 32768 := by decide
  have := pressVar1b_mem v c
  rw [add32_toInt _ _ (by omega), hoff]

/-! ### Step P6: the divisor -/

/-- The exact product of step P6: of a number from 24576 to 40959 and an unsigned 16-bit one. -/
def divisorProduct (v : S32) (cal : CalPatterns) : Int :=
  ((32768 : Int) + (pressVar1b v (pressCoef cal)).toInt) * (cal[3].toNat : Int)

theorem divisorProduct_mem (v : S32) (cal : CalPatterns) :
    (24576 : Int) * cal[3].toNat ≤ divisorProduct v cal ∧ divisorProduct v cal ≤ (40959 : Int) * cal[3].toNat := by
  have := pressVar1b_mem v (pressCoef cal)
  constructor
  · exact mul_le_mul_of_nonneg_right (by omega) (by omega)
  · exact mul_le_mul_of_nonneg_right (by omega) (by omega)

/-- The product is never negative and below 2^32, so a wrapped one reads as 2^32 less. -/
theorem mul32_divisor_toInt (v : S32) (cal : CalPatterns) :
    (mul32 (add32 32768 (pressVar1b v (pressCoef cal))) (pressCoef cal).p1).toInt =
      if divisorProduct v cal < 2147483648 then divisorProduct v cal else divisorProduct v cal - 4294967296 := by
  have := divisorProduct_mem v cal
  have := latch_toNat_le cal[3]
  have hmod := wrap32_toInt_sub_emod (divisorProduct v cal)
  have hfits := toInt_fits (wrap32 (divisorProduct v cal))
  rw [mul32, add32_pressVar1b_toInt, pressCoef_p1_toInt]
  change (wrap32 (divisorProduct v cal)).toInt = _
  split_ifs <;> omega

theorem pressVar1c_toInt (v : S32) (cal : CalPatterns) :
    (pressVar1c v (pressCoef cal)).toInt =
      (if divisorProduct v cal < 2147483648 then divisorProduct v cal else divisorProduct v cal - 4294967296) /
        32768 := by
  rw [pressVar1c, asr32_toInt, mul32_divisor_toInt]
  rfl

theorem toInt_eq_zero_iff (a : S32) : a.toInt = 0 ↔ a = 0 :=
  BitVec.toInt_inj (x := a) (y := 0)

/-- R106: the guard fires for `dig_P1` = 0, and for `dig_P1` = 1 when the other factor is below 32768. -/
theorem pressVar1c_eq_zero_iff (v : S32) (cal : CalPatterns) :
    pressVar1c v (pressCoef cal) = 0 ↔
      cal[3].toNat = 0 ∨ (cal[3].toNat = 1 ∧ (pressVar1b v (pressCoef cal)).toInt < 0) := by
  have hmem := divisorProduct_mem v cal
  have hb := pressVar1b_mem v (pressCoef cal)
  have hle := latch_toNat_le cal[3]
  rw [← toInt_eq_zero_iff, pressVar1c_toInt]
  obtain h0 | h1 | h2 : cal[3].toNat = 0 ∨ cal[3].toNat = 1 ∨ 2 ≤ cal[3].toNat := by omega
  · rw [h0] at hmem
    split_ifs <;> omega
  · have hprod : divisorProduct v cal = 32768 + (pressVar1b v (pressCoef cal)).toInt := by
      simp [divisorProduct, h1]
    rw [hprod]
    split_ifs <;> omega
  · split_ifs <;> omega

theorem pressVar1c_pos (v : S32) {cal : CalPatterns} (hlo : 2 ≤ cal[3].toNat) (hhi : cal[3].toNat ≤ 52430) :
    0 < (pressVar1c v (pressCoef cal)).toInt := by
  have := divisorProduct_mem v cal
  rw [pressVar1c_toInt]
  split_ifs <;> omega

/-- R107. -/
theorem pressVar1c_mem (v : S32) (cal : CalPatterns) :
    -65536 ≤ (pressVar1c v (pressCoef cal)).toInt ∧ (pressVar1c v (pressCoef cal)).toInt ≤ 65535 :=
  asr32_toInt_mem _ (n := 15) (by decide)

/-- Only a wrapped product makes the divisor negative, and only a large `dig_P1` wraps it. -/
theorem le_p1_of_pressVar1c_neg {v : S32} {cal : CalPatterns} (h : (pressVar1c v (pressCoef cal)).toInt < 0) :
    52431 ≤ cal[3].toNat := by
  have := divisorProduct_mem v cal
  rw [pressVar1c_toInt] at h
  split_ifs at h <;> omega

/-- With the coefficient `dig_P1` at 0 the guard fires, whatever the other inputs. -/
theorem pressVar1c_of_p1_zero (v : S32) {c : PressCoef} (h : c.p1 = 0) : pressVar1c v c = 0 := by
  rw [pressVar1c, h, mul32_eq_mul, mul_zero]
  rfl

theorem compP_of_p1_zero (rawP : U20) (tf : S32) {c : PressCoef} (h : c.p1 = 0) : compP rawP tf c = 0 :=
  compP_of_guardFires (pressVar1c_of_p1_zero _ h)

/-- Settles O45: the exact product of step P6 decides all of it; a coefficient of 0 makes it 0. -/
theorem guardFiresExactlyWhen : Obligations.GuardFiresExactlyWhen := by
  refine ⟨fun cal tf => ?_, fun rawP tf => compP_of_p1_zero rawP tf rfl⟩
  have hb := pressVar1b_mem (pressVar1a tf) (pressCoef cal)
  have hzero := pressVar1c_eq_zero_iff (pressVar1a tf) cal
  refine ⟨hb.1, hb.2, ?_, ?_, hzero, fun h2 => ?_, pressVar1c_pos _⟩
  · rw [add32_pressVar1b_toInt]
    omega
  · rw [add32_pressVar1b_toInt]
    omega
  · rw [Ne, hzero]
    omega

/-- The latch of `dig_P1` at 0, as the coefficient. -/
theorem pressCoef_p1_of_zero {cal : CalPatterns} (h : cal[3] = 0) : (pressCoef cal).p1 = 0 := by
  rw [pressCoef, h]
  rfl

theorem exec_conv_of_p1_zero (p t : RawTriple) {s : State} (h : s.cal[3] = 0) :
    ∃ s', exec (.conv p t) s = .next s' ∧ s'.responses = s.responses ++ [.pressure 0] := by
  refine ⟨_, exec_conv p t s, ?_⟩
  rw [compP_of_p1_zero _ _ (pressCoef_p1_of_zero h)]
  rfl

/-- Settles O44: the value the guard tests is the listing's divisor, and it is 0 where `dig_P1` is. -/
theorem zeroDivisorGivesZero : Obligations.ZeroDivisorGivesZero := by
  refine ⟨fun rawP tf c h => ?_, fun p t s h => ⟨?_, exec_conv_of_p1_zero p t h⟩⟩
  · exact compP_of_guardFires ((pressVar1c_eq_listingDivisor tf c).trans h)
  · refine ⟨_, exec_cmpp p s, ?_⟩
    rw [compP_of_p1_zero _ _ (pressCoef_p1_of_zero h)]
    rfl

/-- Settles O55: `CONV` writes the listing's pair whatever it responds. -/
theorem zeroPressureStillWritesTemperature : Obligations.ZeroPressureStillWritesTemperature := by
  refine ⟨fun p t s s' hexec _ => ?_, fun p t s => exec_conv_of_p1_zero p t⟩
  rw [exec_conv] at hexec
  cases hexec
  exact compT_operands_eq_listing t s.cal

/-! ### Steps P9 to P12 -/

theorem pressW_lt (p1 : U32) : (pressW p1).toNat < 524288 := lsr32_toNat_lt _ (n := 13) (by decide)

theorem lsr32_two_lt (p1 : U32) : (lsr32 p1 2).toNat < 1073741824 := lsr32_toNat_lt _ (n := 2) (by decide)

theorem asS32_pressW_toInt (p1 : U32) : (asS32 (pressW p1)).toInt = (pressW p1).toNat :=
  asS32_toInt_of_lt ((pressW_lt p1).trans (by decide))

theorem asS32_lsr32_two_toInt (p1 : U32) : (asS32 (lsr32 p1 2)).toInt = (lsr32 p1 2).toNat :=
  asS32_toInt_of_lt ((lsr32_two_lt p1).trans (by decide))

theorem pressVar1d_mem (p1 : U32) (c : PressCoef) :
    -524288 ≤ (pressVar1d p1 c).toInt ∧ (pressVar1d p1 c).toInt ≤ 524287 :=
  asr32_toInt_mem _ (n := 12) (by decide)

theorem pressVar2d_mem (p1 : U32) (c : PressCoef) :
    -262144 ≤ (pressVar2d p1 c).toInt ∧ (pressVar2d p1 c).toInt ≤ 262143 :=
  asr32_toInt_mem _ (n := 13) (by decide)

theorem corrSum_toInt (p1 : U32) (cal : CalPatterns) :
    (add32 (add32 (pressVar1d p1 (pressCoef cal)) (pressVar2d p1 (pressCoef cal))) (pressCoef cal).p7).toInt =
      (pressVar1d p1 (pressCoef cal)).toInt + (pressVar2d p1 (pressCoef cal)).toInt + cal[9].toInt := by
  have := pressVar1d_mem p1 (pressCoef cal)
  have := pressVar2d_mem p1 (pressCoef cal)
  have := latch_toInt_mem cal[9]
  have hinner := add32_toInt (pressVar1d p1 (pressCoef cal)) (pressVar2d p1 (pressCoef cal)) (by omega)
  rw [add32_toInt _ _ (by rw [hinner, pressCoef_p7_toInt]; omega), hinner, pressCoef_p7_toInt]

theorem pressCorr_toInt (p1 : U32) (cal : CalPatterns) :
    (pressCorr p1 (pressCoef cal)).toInt =
      ((pressVar1d p1 (pressCoef cal)).toInt + (pressVar2d p1 (pressCoef cal)).toInt + cal[9].toInt) / 16 := by
  rw [pressCorr, asr32_toInt, corrSum_toInt]
  rfl

/-- R107. -/
theorem pressCorr_mem (p1 : U32) (cal : CalPatterns) :
    -51200 ≤ (pressCorr p1 (pressCoef cal)).toInt ∧ (pressCorr p1 (pressCoef cal)).toInt ≤ 51199 := by
  have := pressVar1d_mem p1 (pressCoef cal)
  have := pressVar2d_mem p1 (pressCoef cal)
  have := latch_toInt_mem cal[9]
  rw [pressCorr_toInt]
  omega

/-- Settles O46: a shift bounds each step, and the sums and the offset of step P1 keep to what they add. -/
theorem pressureStepRanges : Obligations.PressureStepRanges := by
  intro cal tf p1
  have htf := toInt_fits tf
  have hv := pressVar1a_toInt tf
  have hb := pressVar1b_mem (pressVar1a tf) (pressCoef cal)
  have hc := pressVar1c_mem (pressVar1a tf) cal
  have h1d := pressVar1d_mem p1 (pressCoef cal)
  have h2d := pressVar2d_mem p1 (pressCoef cal)
  have hcorr := pressCorr_mem p1 cal
  refine ⟨by omega, by omega, fun h => by omega, hb.1, hb.2, hc.1, hc.2, pressW_lt p1, lsr32_two_lt p1, ?_, ?_,
    h1d.1, h1d.2, h2d.1, h2d.2, hcorr.1, hcorr.2⟩
  · rw [asS32_pressW_toInt]
    omega
  · rw [asS32_lsr32_two_toInt]
    omega

end Sys2Proof.Machine
end

section
/-!
PROOF. Which steps wrap (40_arith.md R77): the steps that never do, the products that do exactly from a bound on, and
the example coefficient set.
-/

namespace Sys2Proof.Machine

/-- Settles O29: each step by its value lemma. -/
theorem stepsThatCannotWrap : Obligations.StepsThatCannotWrap := by
  intro cal rawT tf p1
  have hrange := tempFine_inRange rawT (tempCoef cal)
  refine ⟨tempA_toInt rawT cal, tempD_toInt rawT cal, tempFine_toInt rawT _, mul32_five_toInt hrange,
    add32_mul32_five_toInt hrange, pressVar1a_toInt tf, shl32_p4_toInt cal, add32_pressX_pressY_toInt _ _,
    add32_pressVar1b_toInt _ _, corrSum_toInt p1 cal, fun h => ?_⟩
  exact mod32_toNat_of_lt (p1.toNat * 2) (by omega)

/-! ### The products that wrap from a bound on -/

theorem mul32_self_wraps_iff (a : S32) :
    (mul32 a a).toInt ≠ a.toInt * a.toInt ↔ a.toInt ≤ -46341 ∨ 46341 ≤ a.toInt := by
  rw [Ne, mul32_toInt_eq_iff, square_fits_iff]
  omega

theorem mulu32_self_wraps_iff (u : U32) : (mulu32 u u).toNat ≠ u.toNat * u.toNat ↔ 65536 ≤ u.toNat := by
  have hbound : u.toNat * u.toNat < 65536 * 65536 ↔ u.toNat < 65536 := Nat.mul_self_lt_mul_self_iff
  rw [mulu32_toNat, Ne, Nat.mod_eq_iff_lt (by decide)]
  omega

/-- Settles O30: the squares wrap where the exact square does not fit, and the product of step P6 is never negative. -/
theorem productsThatWrapExactlyWhen : Obligations.ProductsThatWrapExactlyWhen := by
  intro cal rawT tf p1
  refine ⟨mul32_self_wraps_iff _, mul32_self_wraps_iff _, ?_, ?_⟩
  · rw [mul32_divisor_toInt]
    change _ ≠ divisorProduct (pressVar1a tf) cal ↔ 2147483648 ≤ divisorProduct (pressVar1a tf) cal
    split_ifs <;> omega
  · have hlsr : (lsr32 p1 3).toNat = p1.toNat / 8 := lsr32_toNat p1 3
    rw [← hlsr, mulu32_self_wraps_iff, hlsr]
    omega

/-! ### The exact values of the pressure steps where they do not wrap -/

theorem pressQ_toInt (v : S32) : (pressQ v).toInt = v.toInt / 4 := asr32_toInt v 2

theorem asr32_pressQQ_toInt_of_noWrap {v : S32} (h : Fits32 ((pressQ v).toInt * (pressQ v).toInt)) (n : Nat) :
    (asr32 (pressQQ v) n).toInt = (pressQ v).toInt * (pressQ v).toInt / 2 ^ n := by
  rw [asr32_toInt, pressQQ, mul32_toInt _ _ h]

theorem pressVar2a_toInt_of_noWrap {v : S32} {c : PressCoef}
    (h : Fits32 ((asr32 (pressQQ v) 11).toInt * c.p6.toInt)) :
    (pressVar2a v c).toInt = (asr32 (pressQQ v) 11).toInt * c.p6.toInt :=
  mul32_toInt _ _ h

theorem shl32_mul32_p5_toInt_of_noWrap {v : S32} {c : PressCoef} (hmul : Fits32 (v.toInt * c.p5.toInt))
    (hshl : Fits32 ((mul32 v c.p5).toInt * 2)) : (shl32 (mul32 v c.p5) 1).toInt = v.toInt * c.p5.toInt * 2 := by
  rw [shl32_toInt _ 1 hshl, mul32_toInt _ _ hmul]
  rfl

theorem pressVar2b_toInt_of_noWrap {v : S32} {c : PressCoef}
    (h : Fits32 ((pressVar2a v c).toInt + (shl32 (mul32 v c.p5) 1).toInt)) :
    (pressVar2b v c).toInt = (pressVar2a v c).toInt + (shl32 (mul32 v c.p5) 1).toInt :=
  add32_toInt _ _ h

/-! ### The example coefficient set -/

theorem exampleCal_tempCoef : (Reference.exampleCal[0] : U16).toNat = 27504 ∧
    (tempCoef Reference.exampleCal).t2.toInt = 26435 ∧ (tempCoef Reference.exampleCal).t3.toInt = -1000 := by decide

theorem noWrapT_exampleCal (rawT : U20) : NoWrapT rawT (tempCoef Reference.exampleCal) := by
  obtain ⟨ht1, ht2, ht3⟩ := exampleCal_tempCoef
  have hraw := rawT.isLt
  have ha := tempA_toInt rawT Reference.exampleCal
  have hd := tempD_toInt rawT Reference.exampleCal
  rw [ht1] at ha hd
  have hsq := (square_fits_iff (tempD rawT (tempCoef Reference.exampleCal)).toInt).2 (by omega)
  have hnonneg := mul_self_nonneg (tempD rawT (tempCoef Reference.exampleCal)).toInt
  have hshift := asr32_tempSq_toInt_of_noWrap hsq
  refine ⟨?_, hsq, ?_⟩
  · rw [ht2]
    omega
  · rw [ht3]
    omega

theorem exampleCal_pressCoef :
    (pressCoef Reference.exampleCal).p1.toInt = 36477 ∧ (pressCoef Reference.exampleCal).p2.toInt = -10685 ∧
    (pressCoef Reference.exampleCal).p3.toInt = 3024 ∧ (pressCoef Reference.exampleCal).p5.toInt = 140 ∧
    (pressCoef Reference.exampleCal).p6.toInt = -7 ∧ (pressCoef Reference.exampleCal).p8.toInt = -14600 ∧
    (pressCoef Reference.exampleCal).p9.toInt = 6000 ∧
    (shl32 (pressCoef Reference.exampleCal).p4 16).toInt = 187105280 := by decide

theorem noWrapDivisor_exampleCal {tf : S32} (hlo : -242720 ≤ tf.toInt) (hhi : tf.toInt ≤ 498727) :
    NoWrapDivisor tf (pressCoef Reference.exampleCal) := by
  obtain ⟨hp1, hp2, hp3, hp5, hp6, -, -, hp4⟩ := exampleCal_pressCoef
  have hv := pressVar1a_toInt tf
  have hq := pressQ_toInt (pressVar1a tf)
  have hb := add32_pressVar1b_toInt (pressVar1a tf) (pressCoef Reference.exampleCal)
  have hbmem := pressVar1b_mem (pressVar1a tf) (pressCoef Reference.exampleCal)
  have hqq := (square_fits_iff (pressQ (pressVar1a tf)).toInt).2 (by omega)
  have hnonneg := mul_self_nonneg (pressQ (pressVar1a tf)).toInt
  have hqq11 := asr32_pressQQ_toInt_of_noWrap hqq 11
  have hqq13 := asr32_pressQQ_toInt_of_noWrap hqq 13
  have h2a : Fits32 ((asr32 (pressQQ (pressVar1a tf)) 11).toInt * (pressCoef Reference.exampleCal).p6.toInt) := by
    rw [hp6]
    omega
  have hmul5 : Fits32 ((pressVar1a tf).toInt * (pressCoef Reference.exampleCal).p5.toInt) := by
    rw [hp5]
    omega
  have hshl5 : Fits32 ((mul32 (pressVar1a tf) (pressCoef Reference.exampleCal).p5).toInt * 2) := by
    rw [mul32_toInt _ _ hmul5, hp5]
    omega
  have h2b : Fits32 ((pressVar2a (pressVar1a tf) (pressCoef Reference.exampleCal)).toInt +
      (shl32 (mul32 (pressVar1a tf) (pressCoef Reference.exampleCal).p5) 1).toInt) := by
    rw [pressVar2a_toInt_of_noWrap h2a, shl32_mul32_p5_toInt_of_noWrap hmul5 hshl5, hp5, hp6]
    omega
  refine ⟨hqq, h2a, hmul5, hshl5, h2b, ?_, ?_, ?_, ?_⟩
  · have hasr := asr32_toInt_mem (pressVar2b (pressVar1a tf) (pressCoef Reference.exampleCal)) (n := 2) (by decide)
    rw [hp4]
    omega
  · rw [hp3]
    omega
  · rw [hp2]
    omega
  · rw [hp1]
    omega

theorem noWrapCorr_exampleCal {p1 : U32} (h : p1.toNat ≤ 300000) :
    NoWrapCorr p1 (pressCoef Reference.exampleCal) := by
  obtain ⟨-, -, -, -, -, hp8, hp9, -⟩ := exampleCal_pressCoef
  have hroot : (lsr32 p1 3).toNat ≤ 37500 := by
    rw [lsr32_toNat]
    omega
  have hsq : (mulu32 (lsr32 p1 3) (lsr32 p1 3)).toNat ≤ 37500 * 37500 := by
    rw [mulu32_toNat]
    exact (Nat.mod_le _ _).trans (Nat.mul_le_mul hroot hroot)
  have hw : (pressW p1).toNat = (mulu32 (lsr32 p1 3) (lsr32 p1 3)).toNat / 8192 := lsr32_toNat _ 13
  have hquarter : (lsr32 p1 2).toNat = p1.toNat / 4 := lsr32_toNat p1 2
  rw [NoWrapCorr, asS32_pressW_toInt, asS32_lsr32_two_toInt, hp8, hp9]
  omega

/-- Settles O31: each product is bounded by a literal coefficient times the range of its other factor. -/
theorem exampleCoefficientsDoNotWrap : Obligations.ExampleCoefficientsDoNotWrap := by
  refine ⟨noWrapT_exampleCal, fun tf => noWrapDivisor_exampleCal, fun tf htf => ?_, fun p1 => noWrapCorr_exampleCal⟩
  have hv := pressVar1a_toInt tf
  have hq := pressQ_toInt (pressVar1a tf)
  exact (mul32_self_wraps_iff _).2 (by omega)

end Sys2Proof.Machine
end

section
/-!
PROOF. The quotient of a negative divisor (43_pressure.md R104), what of `t_fine` the pressure depends on (R110), and a
zero response without the guard (R108).
-/

namespace Sys2Proof.Machine

/-! ### A negative divisor -/

theorem asU32_toNat_of_neg {d : S32} (h : d.toInt < 0) : ((asU32 d).toNat : Int) = d.toInt + 4294967296 := by
  rw [asU32_toNat, if_neg h.not_ge]

/-- A dividend below twice the divisor has the quotient 0 or 1. -/
theorem div_eq_zero_or_one {n d : Nat} (h : n < d * 2) : n / d = 0 ∨ n / d = 1 :=
  Nat.le_one_iff_eq_zero_or_eq_one.1 (Nat.le_of_lt_succ (Nat.div_lt_of_lt_mul h))

/-- Step P9 with a divisor above 2^31: each branch divides a number below twice the divisor. -/
theorem pressP1_of_large_divisor {p0 dv : U32} (h : dv ≠ 0) (hdv : 2147483648 < dv.toNat) :
    (p0.toNat < 2147483648 → pressP1 p0 dv h = 0 ∨ pressP1 p0 dv h = 1) ∧
    (2147483648 ≤ p0.toNat → pressP1 p0 dv h = 0 ∨ pressP1 p0 dv h = 2) := by
  have hlt := p0.isLt
  constructor
  · intro hp
    have hq := pressP1_toNat_of_doublingFits h hp
    obtain h0 | h1 := div_eq_zero_or_one (n := 2 * p0.toNat) (d := dv.toNat) (by omega)
    · exact .inl (BitVec.eq_of_toNat_eq (hq.trans h0))
    · exact .inr (BitVec.eq_of_toNat_eq (hq.trans h1))
  · intro hp
    have hq := pressP1_toNat_of_not_doublingFits h hp.not_gt
    obtain h0 | h1 := div_eq_zero_or_one (n := p0.toNat) (d := dv.toNat) (by omega)
    · exact .inl (BitVec.eq_of_toNat_eq (by rw [hq, h0]; rfl))
    · exact .inr (BitVec.eq_of_toNat_eq (by rw [hq, h1]; rfl))

/-- Settles O48: a negative divisor is at least -65536, so as an unsigned number it is above 2^31. -/
theorem negativeDivisorGivesSmallQuotient : Obligations.NegativeDivisorGivesSmallQuotient := by
  intro cal tf p0 d hneg
  have hmem : -65536 ≤ d.toInt := (pressVar1c_mem (pressVar1a tf) cal).1
  have hdv := asU32_toNat_of_neg hneg
  exact ⟨le_p1_of_pressVar1c_neg hneg, hdv, fun h => pressP1_of_large_divisor (dv := asU32 d) h (by omega)⟩

/-! ### The cascade -/

theorem compP_congr_pressVar1a (rawP : U20) {tf tf' : S32} (c : PressCoef) (h : pressVar1a tf = pressVar1a tf') :
    compP rawP tf c = compP rawP tf' c := by
  unfold compP
  rw [h]

/-- Step P1 shifts bit 0 out. -/
theorem pressVar1a_xor_one (tf : S32) : pressVar1a (tf ^^^ 1) = pressVar1a tf := by
  have hasr : asr32 (tf ^^^ 1) 1 = asr32 tf 1 := by
    rw [asr32_eq_sshiftRight, asr32_eq_sshiftRight, BitVec.sshiftRight_xor_distrib]
    exact BitVec.xor_zero
  rw [pressVar1a, hasr, pressVar1a]

/-- Settles O49: `CompP` reads `t_fine` in step P1 only; the two example pressures are evaluated. -/
theorem pressureDependsOnTFineThroughVar1a : Obligations.PressureDependsOnTFineThroughVar1a :=
  ⟨fun rawP _ _ => compP_congr_pressVar1a rawP, fun rawP tf c => compP_congr_pressVar1a rawP c (pressVar1a_xor_one tf),
    by decide, by decide⟩

/-- Settles O50: the steps of this one input are evaluated. -/
theorem zeroPressureWithoutGuard : Obligations.ZeroPressureWithoutGuard := by
  unfold Obligations.ZeroPressureWithoutGuard
  decide

end Sys2Proof.Machine
end

section
/-!
PROOF. Where no signed step of the pressure pipeline wraps (40_arith.md R77, 70_reset_and_hazards.md R158): there the
model and the listing in unbounded integers agree, of the value and of the response in a run.
-/

namespace Sys2Proof.Machine

/-! ### The listing in unbounded integers, cut at its steps -/

/-- Steps P2 to P4. -/
def exactVar2c (v : Int) (c : CalValues) : Int :=
  (v / 4 * (v / 4) / 2048 * c.p6 + v * c.p5 * 2) / 4 + c.p4 * 65536

/-- Steps P2, P5 and P6. -/
def exactDivisor (v : Int) (c : CalValues) : Int :=
  (32768 + (c.p3 * (v / 4 * (v / 4) / 8192) / 8 + c.p2 * v / 2) / 262144) * c.p1 / 32768

/-- Step P8. -/
def exactP0 (rawP var2c : Int) : Int := (1048576 - rawP - var2c / 4096) * 3125 % 4294967296

/-- Step P9. -/
def exactP1 (p0 dv : Int) : Int := if p0 < 2147483648 then p0 * 2 / dv else p0 / dv * 2 % 4294967296

/-- Step P12. -/
def exactFinal (p1 : Int) (c : CalValues) : Int := (p1 + Reference.exactCorr p1 c.p7 c.p8 c.p9) % 4294967296

theorem exactP_eq (rawP tf : Int) (c : CalValues) :
    Reference.exactP rawP tf c =
      if exactDivisor (tf / 2 - 64000) c = 0 then 0
      else exactFinal (exactP1 (exactP0 rawP (exactVar2c (tf / 2 - 64000) c)) (exactDivisor (tf / 2 - 64000) c)) c :=
  rfl

/-! ### Step by step -/

theorem pressVar2c_toInt_of_noWrap {tf : S32} {cal : CalPatterns} (h : NoWrapDivisor tf (pressCoef cal)) :
    (pressVar2c (pressVar1a tf) (pressCoef cal)).toInt = exactVar2c (pressVar1a tf).toInt (calValues cal) := by
  obtain ⟨hqq, h2a, hmul5, hshl5, h2b, h2c, -, -, -⟩ := h
  rw [pressVar2c, add32_toInt _ _ h2c, asr32_toInt, pressVar2b_toInt_of_noWrap h2b, pressVar2a_toInt_of_noWrap h2a,
    shl32_mul32_p5_toInt_of_noWrap hmul5 hshl5, asr32_pressQQ_toInt_of_noWrap hqq, pressQ_toInt, shl32_p4_toInt,
    ← pressCoef_p4_toInt]
  rfl

theorem pressX_toInt_of_noWrap {v : S32} {c : PressCoef}
    (h : Fits32 (c.p3.toInt * (asr32 (pressQQ v) 13).toInt)) :
    (pressX v c).toInt = c.p3.toInt * (asr32 (pressQQ v) 13).toInt / 8 := by
  rw [pressX, asr32_toInt _ 3, mul32_toInt _ _ h]
  rfl

theorem pressY_toInt_of_noWrap {v : S32} {c : PressCoef} (h : Fits32 (c.p2.toInt * v.toInt)) :
    (pressY v c).toInt = c.p2.toInt * v.toInt / 2 := by
  rw [pressY, asr32_toInt, mul32_toInt _ _ h]
  rfl

theorem pressVar1b_toInt_of_noWrap {tf : S32} {c : PressCoef} (h : NoWrapDivisor tf c) :
    (pressVar1b (pressVar1a tf) c).toInt =
      (c.p3.toInt * ((pressVar1a tf).toInt / 4 * ((pressVar1a tf).toInt / 4) / 8192) / 8 +
        c.p2.toInt * (pressVar1a tf).toInt / 2) / 262144 := by
  obtain ⟨hqq, -, -, -, -, -, h3, h2, -⟩ := h
  rw [pressVar1b, asr32_toInt, add32_pressX_pressY_toInt, pressX_toInt_of_noWrap h3, pressY_toInt_of_noWrap h2,
    asr32_pressQQ_toInt_of_noWrap hqq, pressQ_toInt]
  rfl

theorem pressVar1c_toInt_of_noWrap {tf : S32} {cal : CalPatterns} (h : NoWrapDivisor tf (pressCoef cal)) :
    (pressVar1c (pressVar1a tf) (pressCoef cal)).toInt = exactDivisor (pressVar1a tf).toInt (calValues cal) := by
  have hb := pressVar1b_toInt_of_noWrap h
  obtain ⟨-, -, -, -, -, -, -, -, h1⟩ := h
  rw [pressVar1c, asr32_toInt, mul32_toInt _ _ h1, add32_pressVar1b_toInt, hb]
  rfl

/-- The product of step P6 is never negative, so where it fits the divisor is not negative either. -/
theorem pressVar1c_nonneg_of_noWrap {tf : S32} {cal : CalPatterns} (h : NoWrapDivisor tf (pressCoef cal)) :
    0 ≤ (pressVar1c (pressVar1a tf) (pressCoef cal)).toInt := by
  obtain ⟨-, -, -, -, -, -, -, -, h1⟩ := h
  rw [add32_pressVar1b_toInt, pressCoef_p1_toInt] at h1
  have hmem := divisorProduct_mem (pressVar1a tf) cal
  have hfits : divisorProduct (pressVar1a tf) cal < 2147483648 := Int.lt_of_le_sub_one h1.2
  rw [pressVar1c_toInt, if_pos hfits]
  omega

theorem pressP0_toNat (rawP : U20) (var2c : S32) :
    ((pressP0 rawP var2c).toNat : Int) = exactP0 rawP.toNat var2c.toInt := by
  have hraw : ((zext20 rawP : U32).toNat : Int) = rawP.toNat := by
    rw [zext20_eq_setWidth, BitVec.toNat_setWidth_of_le (by decide)]
  have hasr : ((asU32 (asr32 var2c 12)).toNat : Int) = var2c.toInt / 4096 % 4294967296 := by
    rw [asU32_toNat_eq_emod, asr32_toInt]
    rfl
  have htop : ((1048576 : U32).toNat : Int) = 1048576 := by decide
  have hmul : ((3125 : U32).toNat : Int) = 3125 := by decide
  rw [pressP0, mulu32_toNat, exactP0, Int.natCast_emod, Int.natCast_mul, subu32_toNat, subu32_toNat, hraw, hasr, htop,
    hmul]
  omega

theorem pressP1_toNat (p0 dv : U32) (h : dv ≠ 0) :
    ((pressP1 p0 dv h).toNat : Int) = exactP1 p0.toNat dv.toNat := by
  by_cases hp : doublingFits p0
  · rw [pressP1_toNat_of_doublingFits h hp, exactP1, if_pos (by omega), mul_comm 2]
    rfl
  · rw [pressP1_toNat_of_not_doublingFits h hp, exactP1, if_neg (by omega), mul_comm 2]
    rfl

theorem pressW_toNat (p1 : U32) : (pressW p1).toNat = p1.toNat / 8 * (p1.toNat / 8) % 4294967296 / 8192 := by
  rw [pressW, lsr32_toNat, mulu32_toNat, lsr32_toNat]
  rfl

theorem pressCorr_toInt_of_noWrap {p1 : U32} {cal : CalPatterns} (h : NoWrapCorr p1 (pressCoef cal)) :
    (pressCorr p1 (pressCoef cal)).toInt =
      Reference.exactCorr p1.toNat (calValues cal).p7 (calValues cal).p8 (calValues cal).p9 := by
  obtain ⟨h9, h8⟩ := h
  rw [pressCorr_toInt, pressVar1d, asr32_toInt, mul32_toInt _ _ h9, pressVar2d, asr32_toInt, mul32_toInt _ _ h8,
    asS32_pressW_toInt, asS32_lsr32_two_toInt, pressW_toNat, lsr32_toNat, ← pressCoef_p7_toInt]
  rfl

theorem pressFinal_toNat_of_noWrap {p1 : U32} {cal : CalPatterns} (h : NoWrapCorr p1 (pressCoef cal)) :
    ((pressFinal p1 (pressCoef cal)).toNat : Int) = exactFinal p1.toNat (calValues cal) := by
  have hcorr := asU32_toNat_eq_emod (pressCorr p1 (pressCoef cal))
  rw [pressFinal, addu32_toNat, exactFinal, ← pressCorr_toInt_of_noWrap h]
  omega

theorem compP_toNat_of_noWrap {cal : CalPatterns} {rawP : U20} {tf : S32} (h : NoWrapP rawP tf (pressCoef cal)) :
    ((compP rawP tf (pressCoef cal)).toNat : Int) = Reference.exactP rawP.toNat tf.toInt (calValues cal) := by
  obtain ⟨hdiv, hcorr⟩ := h
  have hdv := pressVar1c_toInt_of_noWrap hdiv
  rw [exactP_eq, ← pressVar1a_toInt, ← hdv]
  by_cases hguard : pressVar1c (pressVar1a tf) (pressCoef cal) = 0
  · rw [compP_of_guardFires hguard, if_pos ((toInt_eq_zero_iff _).2 hguard)]
    rfl
  · have hne : asU32 (pressVar1c (pressVar1a tf) (pressCoef cal)) ≠ 0 := hguard
    have hunsigned := asU32_toNat (pressVar1c (pressVar1a tf) (pressCoef cal))
    rw [if_pos (pressVar1c_nonneg_of_noWrap hdiv)] at hunsigned
    rw [compP_of_divisor_ne_zero hne, if_neg (mt (toInt_eq_zero_iff _).1 hguard),
      pressFinal_toNat_of_noWrap (hcorr hne), pressP1_toNat, pressP0_toNat, pressVar2c_toInt_of_noWrap hdiv, hunsigned]

/-- Settles O51: the pressure step by step; in a run `t_fine` is that of its last temperature command, and `CMPP`
responds with the pressure at it. -/
theorem pressureWithoutWrapIsExact : Obligations.PressureWithoutWrapIsExact := by
  refine ⟨fun cal rawP tf => compP_toNat_of_noWrap, fun s0 s is c rawT p hr hc ht hrange hT hP => ?_⟩
  refine ⟨_, exec_cmpp p s, ?_⟩
  rw [compP_toNat_of_noWrap hP, hr.tFine_toInt_of_noWrap hc ht hrange hT, hr.calValues_of_calLoaded hc hrange]

end Sys2Proof.Machine
end

section
/-!
PROOF. The whole machine (30_encoding.md R54, 20_memory.md R38, 44_sample_readback.md R122): what each command responds,
writes and reads, and that a pair of commands may stand for `CONV`.
-/

namespace Sys2Proof.Machine

/-! ### The commands by the values they compute

A result is named before the command is run, so that the next state carries the name and not the whole pipeline. -/

theorem exec_cmpt_of_compT {t : RawTriple} {s : State} {tf : S32} {tc : S16}
    (h : compT (rawAssemble t) (tempCoef s.cal) = (tf, tc)) :
    exec (.cmpt t) s = .next ((s.writeTemperature tf tc).respond (.temperature tf tc)) := by
  rw [exec_cmpt, h]

theorem exec_cmpp_of_compP {p : RawTriple} {s : State} {pa : U32}
    (h : compP (rawAssemble p) s.tFine (pressCoef s.cal) = pa) :
    exec (.cmpp p) s = .next (s.respond (.pressure pa)) := by
  rw [exec_cmpp, h]

theorem exec_conv_of_compT_compP {p t : RawTriple} {s : State} {tf : S32} {tc : S16} {pa : U32}
    (ht : compT (rawAssemble t) (tempCoef s.cal) = (tf, tc)) (hp : compP (rawAssemble p) tf (pressCoef s.cal) = pa) :
    exec (.conv p t) s = .next ((s.writeTemperature tf tc).respond (.pressure pa)) := by
  rw [exec_conv, ht, hp]

theorem exists_compT (rawT : U20) (c : TempCoef) : ∃ tf tc, compT rawT c = (tf, tc) := ⟨_, _, rfl⟩

theorem exists_compP (rawP : U20) (tf : S32) (c : PressCoef) : ∃ pa, compP rawP tf c = pa := ⟨_, rfl⟩

/-! ### Responses and writes -/

/-- Settles O56: the next state of each command. -/
theorem everyCommandCompletesWithOneResponse : Obligations.EveryCommandCompletesWithOneResponse := by
  intro i s
  cases i with
  | ldcal b => exact ⟨_, _, exec_ldcal b s, rfl, rfl⟩
  | cmpt t =>
    obtain ⟨tf, tc, ht⟩ := exists_compT (rawAssemble t) (tempCoef s.cal)
    exact ⟨_, _, exec_cmpt_of_compT ht, rfl, rfl⟩
  | cmpp p =>
    obtain ⟨pa, hp⟩ := exists_compP (rawAssemble p) s.tFine (pressCoef s.cal)
    exact ⟨_, _, exec_cmpp_of_compP hp, rfl, pa, rfl⟩
  | conv p t =>
    obtain ⟨tf, tc, ht⟩ := exists_compT (rawAssemble t) (tempCoef s.cal)
    obtain ⟨pa, hp⟩ := exists_compP (rawAssemble p) tf (pressCoef s.cal)
    exact ⟨_, _, exec_conv_of_compT_compP ht hp, rfl, pa, rfl⟩
  | rdlt => exact ⟨_, _, exec_rdlt s, rfl, rfl⟩

theorem notLoad_of_ne_ldcal {i : Instr} (h : ∀ b, i ≠ .ldcal b) : NotLoad i := by
  cases i with
  | ldcal b => exact h b rfl
  | cmpt _ | cmpp _ | conv _ _ | rdlt => trivial

theorem temperatureOf_eq_none {i : Instr} (hcmpt : ∀ t, i ≠ .cmpt t) (hconv : ∀ p t, i ≠ .conv p t) :
    temperatureOf i = none := by
  cases i with
  | cmpt t => exact absurd rfl (hcmpt t)
  | conv p t => exact absurd rfl (hconv p t)
  | ldcal _ | cmpp _ | rdlt => rfl

/-- Settles O57: `LDCAL` alone loads, `CMPT` and `CONV` alone carry a raw temperature, and each command
responds once. -/
theorem onlyTheNamedCommandsWrite : Obligations.OnlyTheNamedCommandsWrite := by
  intro i s s' h
  obtain ⟨s₁, r, hexec, hresp⟩ := exec_responds i s
  cases hexec.symm.trans h
  exact ⟨fun hi => exec_cal_of_notLoad (notLoad_of_ne_ldcal hi) h,
    fun hcmpt hconv => exec_temperature_of_none (temperatureOf_eq_none hcmpt hconv) h,
    exec_input i s s' h, exec_resets i s s' h, hresp ▸ List.prefix_append _ _⟩

/-- Settles O58: what a command reads it does not write, so the second time it finds the same operands and writes what
stands there. -/
theorem repeatingACommandChangesNothing : Obligations.RepeatingACommandChangesNothing := by
  intro i s
  cases i with
  | ldcal b => exact ⟨_, _, exec_ldcal b s, rfl, exec_ldcal b _, nofun, nofun⟩
  | cmpt t =>
    obtain ⟨tf, tc, ht⟩ := exists_compT (rawAssemble t) (tempCoef s.cal)
    exact ⟨_, _, exec_cmpt_of_compT ht, rfl, exec_cmpt_of_compT ht, nofun, nofun⟩
  | cmpp p =>
    obtain ⟨pa, hp⟩ := exists_compP (rawAssemble p) s.tFine (pressCoef s.cal)
    exact ⟨_, _, exec_cmpp_of_compP hp, rfl, exec_cmpp_of_compP hp, fun _ _ => rfl, nofun⟩
  | conv p t =>
    obtain ⟨tf, tc, ht⟩ := exists_compT (rawAssemble t) (tempCoef s.cal)
    obtain ⟨pa, hp⟩ := exists_compP (rawAssemble p) tf (pressCoef s.cal)
    exact ⟨_, _, exec_conv_of_compT_compP ht hp, rfl, exec_conv_of_compT_compP ht hp, nofun, nofun⟩
  | rdlt => exact ⟨_, _, exec_rdlt s, rfl, exec_rdlt _, nofun, fun _ => rfl⟩

/-! ### Reads -/

theorem tempCoef_congr {cal cal' : CalPatterns} (h0 : cal[0] = cal'[0]) (h1 : cal[1] = cal'[1])
    (h2 : cal[2] = cal'[2]) : tempCoef cal = tempCoef cal' := by
  rw [tempCoef, tempCoef, h0, h1, h2]

/-- The pressure coefficients are the nine latches from index 3 on. -/
theorem pressCoef_congr {cal cal' : CalPatterns} (h : ∀ k : Fin 12, 3 ≤ k.val → cal[k] = cal'[k]) :
    pressCoef cal = pressCoef cal' := by
  have latch {k : Nat} (hk : k < 12) (h3 : 3 ≤ k) : cal[k] = cal'[k] := h ⟨k, hk⟩ h3
  simp [pressCoef, latch]

/-- Settles O59: each command reads the state through its coefficients, or through the one register it names. -/
theorem commandsReadOnlyWhatTheyName : Obligations.CommandsReadOnlyWhatTheyName := by
  refine ⟨fun t s s' h0 h1 h2 => ?_, fun p s s' htf hcal => ?_, fun p t s s' hcal => ?_, fun s s' hlt => ?_⟩
  · obtain ⟨tf, tc, ht⟩ := exists_compT (rawAssemble t) (tempCoef s.cal)
    exact ⟨tf, tc, exec_cmpt_of_compT ht, exec_cmpt_of_compT (tempCoef_congr h0 h1 h2 ▸ ht)⟩
  · obtain ⟨pa, hp⟩ := exists_compP (rawAssemble p) s.tFine (pressCoef s.cal)
    exact ⟨pa, exec_cmpp_of_compP hp, exec_cmpp_of_compP (pressCoef_congr hcal ▸ htf ▸ hp)⟩
  · obtain ⟨tf, tc, ht⟩ := exists_compT (rawAssemble t) (tempCoef s.cal)
    obtain ⟨pa, hp⟩ := exists_compP (rawAssemble p) tf (pressCoef s.cal)
    exact ⟨tf, tc, pa, exec_conv_of_compT_compP ht hp, exec_conv_of_compT_compP (hcal ▸ ht) (hcal ▸ hp)⟩
  · refine ⟨_, exec_rdlt s, ?_⟩
    rw [hlt]
    exact exec_rdlt s'

/-! ### `CONV` as a pair of commands -/

theorem head?_packet_ne_resetInCommand (i : Instr) (es : List HostEvent) :
    ((encode i).map HostEvent.byte ++ es).head? ≠ some .resetInCommand := by
  obtain ⟨⟨body, hbody⟩, -, -⟩ := packetShape i
  simp [hbody]

/-- A machine whose stream begins with a packet spends its first step on the command. -/
theorem core_run_packet {s s' : State} {i : Instr} {es : List HostEvent} (k : Nat)
    (hes : es.head? ≠ some .resetInCommand) (hexec : exec i s = .next s') :
    Host.Core.run Sys2Proof.core (k + 1) (s.withInput ((encode i).map .byte ++ es)) =
      Host.Core.run Sys2Proof.core k (s'.withInput es) :=
  core_run_succ_of_step ((step_encode_append (s := s.withInput _) rfl hes).trans (exec_withInput i s s' es hexec)) k

/-- Settles O53: `CMPT` leaves in `T_FINE` what `CONV` computes its pressure with, and leaves the latches alone. -/
theorem convIsCmptThenCmpp : Obligations.ConvIsCmptThenCmpp := by
  intro p t s es hes
  have hpair : (encode (.cmpt t) ++ encode (.cmpp p)).map HostEvent.byte ++ es =
      (encode (.cmpt t)).map .byte ++ ((encode (.cmpp p)).map .byte ++ es) := by
    rw [List.map_append, List.append_assoc]
  obtain ⟨tf, tc, ht⟩ := exists_compT (rawAssemble t) (tempCoef s.cal)
  obtain ⟨pa, hp⟩ := exists_compP (rawAssemble p) tf (pressCoef s.cal)
  have hconv := core_run_packet 0 hes (exec_conv_of_compT_compP ht hp)
  have hfirst := core_run_packet 1 (head?_packet_ne_resetInCommand (.cmpp p) es) (exec_cmpt_of_compT ht)
  have hsecond := core_run_packet 0 hes
    (exec_cmpp_of_compP (s := (s.writeTemperature tf tc).respond (.temperature tf tc)) hp)
  refine ⟨(s.writeTemperature tf tc).withInput es, tf, tc, pa, hconv, ?_, rfl, rfl⟩
  rw [hpair]
  refine hfirst.trans (hsecond.trans ?_)
  simp [Host.Core.run, State.respond, State.withInput, State.writeTemperature]

end Sys2Proof.Machine
end
